-- ==== Sys2Proof/Word.lean ====
section
/-! DEFINITION. The words, bytes, bits and symbols of the compression_algo CORE (spec R8, R9, R14, R70). -/

namespace Sys2Proof

/-- A 32-bit word: `CMD`, `DATA`, `RSTAT`, `RVAL` and the magic constant (R6, R21). -/
abbrev Word := BitVec 32

/-- A byte of the source or of the sink: 8 bits, bit 7 the most significant (R8). -/
abbrev Byte := BitVec 8

/-- A bit list in stream order, first bit leftmost (R9). `true` is the bit 1. -/
abbrev Bits := List Bool

/-- A symbol the tree store admits: 0..255 are chunk values, 256 is the sentinel (R6 `NSYM`, R10, R173). -/
abbrev Symbol := Fin 257

/-- R6 `SENTINEL`: the end-of-data symbol. -/
def sentinel : Symbol := 256

end Sys2Proof
end

