-- ==== Sys2Proof/Syntax.lean ====
section
/-! DEFINITION. The 14 commands of R73, one constructor per row of spec/opcode_table.json. -/

namespace Sys2Proof

/-- A decoded command with its operands.
`n` is the width field N of R75 (0..63 when well formed); `sym` is the symbol field SYM of R76 (0..511 when well
formed); `value` is the operand word `DATA` of R72. Every other command has no operand (R38, R70). -/
inductive Instr where
  /-- RD.READ n (R101). -/
  | rdRead (n : Nat)
  /-- RD.RESET (R104). -/
  | rdReset
  /-- RD.CLOSE (R105). -/
  | rdClose
  /-- WR.WRITE n, value (R121). -/
  | wrWrite (n : Nat) (value : Word)
  /-- WR.CLOSE (R125). -/
  | wrClose
  /-- FREQ.COUNT (R140). -/
  | freqCount
  /-- TREE.BUILD (R143). -/
  | treeBuild
  /-- CODE.DERIVE (R150). -/
  | codeDerive
  /-- TREE.SER (R170). -/
  | treeSer
  /-- TREE.DESER (R172). -/
  | treeDeser
  /-- ENC.SYM sym (R190). -/
  | encSym (sym : Nat)
  /-- COMPRESS (R192). -/
  | compress
  /-- DEC.STEP (R210). -/
  | decStep
  /-- DECOMPRESS (R213). -/
  | decompress
deriving DecidableEq, Repr

end Sys2Proof
end

