-- ==== Sys2Proof/WellFormed.lean ====
section
/-! DEFINITION. Which terms of `Instr` are commands the encoding can carry: the field widths of R71, R75 and R76. -/

namespace Sys2Proof

/-- The width field N is CMD[13:8]: 6 bits (R71, R75). -/
def Instr.widthFits : Instr → Bool
  | .rdRead n => n < 64
  | .wrWrite n _ => n < 64
  | .rdReset | .rdClose | .wrClose | .freqCount | .treeBuild | .codeDerive | .treeSer | .treeDeser
  | .encSym _ | .compress | .decStep | .decompress => true

/-- The symbol field SYM is CMD[24:16]: 9 bits (R71, R76). -/
def Instr.symbolFits : Instr → Bool
  | .encSym sym => sym < 512
  | .rdRead _ | .wrWrite _ _ | .rdReset | .rdClose | .wrClose | .freqCount | .treeBuild | .codeDerive
  | .treeSer | .treeDeser | .compress | .decStep | .decompress => true

/-- A command the 32-bit command word can carry. A width outside 1..32 and a symbol above 256 are well formed:
the command's own rule refuses them (R75, R76). -/
def Instr.WellFormed (i : Instr) : Bool := i.widthFits && i.symbolFits

end Sys2Proof
end

