-- ==== Sys2Proof/Decode.lean ====
section
/-! DEFINITION. The decoder of R74, total on every 32-bit command word, and after it the encoder of R86, written from
the same tables (R71, R73). -/

namespace Sys2Proof

/-- Why a command word is refused (R74, R77). -/
inductive DecodeError where
  /-- OP is not in the table of R73. -/
  | reservedOpcode
  /-- A reserved bit, or a field the command does not use, is not 0. -/
  | reservedBits
deriving DecidableEq, Repr

/-- R71 `OP` = CMD[7:0]. -/
def opField (cmd : Word) : Nat := (cmd.extractLsb' 0 8).toNat

/-- R71, R75 `N` = CMD[13:8], zero-extended. -/
def nField (cmd : Word) : Nat := (cmd.extractLsb' 8 6).toNat

/-- R71 CMD[15:14], reserved. -/
def reservedLow (cmd : Word) : Nat := (cmd.extractLsb' 14 2).toNat

/-- R71, R76 `SYM` = CMD[24:16], zero-extended. -/
def symField (cmd : Word) : Nat := (cmd.extractLsb' 16 9).toNat

/-- R71 CMD[31:25], reserved. -/
def reservedHigh (cmd : Word) : Nat := (cmd.extractLsb' 25 7).toNat

/-- R73: the command an OP value names, with its operands; `none` where OP is reserved. -/
def commandOf (op n sym : Nat) (data : Word) : Option Instr :=
  match op with
  | 0x01 => some (.rdRead n)
  | 0x02 => some .rdReset
  | 0x03 => some .rdClose
  | 0x11 => some (.wrWrite n data)
  | 0x12 => some .wrClose
  | 0x21 => some .freqCount
  | 0x22 => some .treeBuild
  | 0x23 => some .codeDerive
  | 0x31 => some .treeSer
  | 0x32 => some .treeDeser
  | 0x41 => some (.encSym sym)
  | 0x42 => some .compress
  | 0x51 => some .decStep
  | 0x52 => some .decompress
  | _ => none

/-- R71: N is used by RD.READ and WR.WRITE only. -/
def Instr.usesWidth : Instr → Bool
  | .rdRead _ | .wrWrite _ _ => true
  | .rdReset | .rdClose | .wrClose | .freqCount | .treeBuild | .codeDerive | .treeSer | .treeDeser
  | .encSym _ | .compress | .decStep | .decompress => false

/-- R71: SYM is used by ENC.SYM only. -/
def Instr.usesSymbol : Instr → Bool
  | .encSym _ => true
  | .rdRead _ | .wrWrite _ _ | .rdReset | .rdClose | .wrClose | .freqCount | .treeBuild | .codeDerive
  | .treeSer | .treeDeser | .compress | .decStep | .decompress => false

/-- R74: the checks in the order the rule gives, then the command. -/
def decode (cmd data : Word) : Except DecodeError Instr :=
  match commandOf (opField cmd) (nField cmd) (symField cmd) data with
  | none => .error .reservedOpcode
  | some i =>
    if reservedLow cmd ≠ 0 ∨ reservedHigh cmd ≠ 0 then .error .reservedBits
    else if i.usesWidth = false ∧ nField cmd ≠ 0 then .error .reservedBits
    else if i.usesSymbol = false ∧ symField cmd ≠ 0 then .error .reservedBits
    else .ok i

/-- R73: the opcode of a command. -/
def Instr.opcode : Instr → Nat
  | .rdRead _ => 0x01
  | .rdReset => 0x02
  | .rdClose => 0x03
  | .wrWrite _ _ => 0x11
  | .wrClose => 0x12
  | .freqCount => 0x21
  | .treeBuild => 0x22
  | .codeDerive => 0x23
  | .treeSer => 0x31
  | .treeDeser => 0x32
  | .encSym _ => 0x41
  | .compress => 0x42
  | .decStep => 0x51
  | .decompress => 0x52

/-- The N field a command is assembled with: nonzero only for RD.READ and WR.WRITE (R86). -/
def Instr.widthOperand : Instr → Nat
  | .rdRead n | .wrWrite n _ => n
  | .rdReset | .rdClose | .wrClose | .freqCount | .treeBuild | .codeDerive | .treeSer | .treeDeser
  | .encSym _ | .compress | .decStep | .decompress => 0

/-- The SYM field a command is assembled with: nonzero only for ENC.SYM (R86). -/
def Instr.symbolOperand : Instr → Nat
  | .encSym sym => sym
  | .rdRead _ | .wrWrite _ _ | .rdReset | .rdClose | .wrClose | .freqCount | .treeBuild | .codeDerive
  | .treeSer | .treeDeser | .compress | .decStep | .decompress => 0

/-- The operand word a command is assembled with; 0 where the command ignores it (R70, R72). -/
def Instr.dataOperand : Instr → Word
  | .wrWrite _ value => value
  | .rdRead _ | .rdReset | .rdClose | .wrClose | .freqCount | .treeBuild | .codeDerive | .treeSer | .treeDeser
  | .encSym _ | .compress | .decStep | .decompress => 0

/-- R86: `CMD = OP | (N << 8) | (SYM << 16)`. -/
def commandWord (i : Instr) : Word :=
  BitVec.ofNat 32 i.opcode ||| (BitVec.ofNat 32 i.widthOperand <<< 8) ||| (BitVec.ofNat 32 i.symbolOperand <<< 16)

/-- The assembled form of a command: the pair (`CMD`, `DATA`) (R70, R84, R86). -/
def encode (i : Instr) : Word × Word := (commandWord i, i.dataOperand)

/-- The "mask" of a command's row in spec/opcode_table.json: the bits of `CMD` the row fixes (R71, R73). -/
def Instr.tableMask : Instr → Word
  | .rdRead _ | .wrWrite _ _ => 0xFFFFC0FF
  | .encSym _ => 0xFE00FFFF
  | .rdReset | .rdClose | .wrClose | .freqCount | .treeBuild | .codeDerive | .treeSer | .treeDeser
  | .compress | .decStep | .decompress => 0xFFFFFFFF

/-- The "match" of a command's row in spec/opcode_table.json: what those bits are. -/
def Instr.tableMatch : Instr → Word
  | .rdRead _ => 0x00000001
  | .rdReset => 0x00000002
  | .rdClose => 0x00000003
  | .wrWrite _ _ => 0x00000011
  | .wrClose => 0x00000012
  | .freqCount => 0x00000021
  | .treeBuild => 0x00000022
  | .codeDerive => 0x00000023
  | .treeSer => 0x00000031
  | .treeDeser => 0x00000032
  | .encSym _ => 0x00000041
  | .compress => 0x00000042
  | .decStep => 0x00000051
  | .decompress => 0x00000052

/-- The instruction the decoder reads from an instruction whose bits are `w`: `CMD` is the first word (bits 31..0),
`DATA` the second (bits 63..32); every bit above `nbits` is 0 (R70, R71). -/
def decodeTableWord (nbits w : Nat) : Option Instr :=
  (decode (BitVec.ofNat 32 (w % 2 ^ nbits)) (BitVec.ofNat 32 (w % 2 ^ nbits / 2 ^ 32))).toOption

end Sys2Proof
end

