-- ==== Sys2Proof/Machine/Operands.lean ====
section
/-! DEFINITION. The operand forms: bit lists and their values (R9), the bits of a byte stream (R51, R52), and the
bytes a bit list makes (R87, R90, R122). -/

namespace Sys2Proof.Machine

/-- R9 `val(L)`: the unsigned integer whose most significant bit is `L[0]`. -/
def val (l : Bits) : Nat := l.foldl (fun acc b => 2 * acc + b.toNat) 0

/-- R9 `bits_N(v)`: the low `N` bits of `v`, most significant first. -/
def bitsOf : Nat → Nat → Bits
  | 0, _ => []
  | n + 1, v => v.testBit n :: bitsOf n v

/-- R51 `BitAt(k) = SRC[k div 8][7 - (k mod 8)]`. Only positions inside the stream are ever asked for (R102). -/
def bitAt (src : List Byte) (k : Nat) : Bool := (src.getD (k / 8) 0).getLsbD (7 - k % 8)

/-- `[BitAt(p), BitAt(p+1), ..., BitAt(p+n-1)]` (R52, R102). -/
def bitsAt (src : List Byte) : Nat → Nat → Bits
  | _, 0 => []
  | p, n + 1 => bitAt src p :: bitsAt src (p + 1) n

/-- The byte whose bits, most significant first, are the list (R122: `val` of eight bits). -/
def byteOf (l : Bits) : Byte := BitVec.ofNat 8 (val l)

/-- The zero bits that complete a partial byte of the list (R90, R125). -/
def padding (l : Bits) : Bits := List.replicate ((8 - l.length % 8) % 8) false

/-- The bit stream a byte list is, each byte most significant bit first (R51). -/
def bytesBits (bs : List Byte) : Bits := bs.flatMap fun b => bitsOf 8 b.toNat

/-- R82: a value read, or a count R82 gives modulo 2^32 (FREQ.COUNT, COMPRESS, DECOMPRESS), as the 32-bit result word.
A count R82 does not reduce goes through `countWord`. -/
def resultWord (n : Nat) : Word := BitVec.ofNat 32 n

/-- R6 `NMIN`, `NMAX`: the widths RD.READ and WR.WRITE accept (R56, R101, R121). -/
def legalWidth (n : Nat) : Bool := 1 ≤ n && n ≤ 32

end Sys2Proof.Machine
end

