-- ==== Sys2Proof/Machine/Tree.lean ====
section
/-! DEFINITION. Trees (R10), the path to a node, code derivation by traversal (R150 to R152) and the pre-order bit
form of a tree (R88). -/

namespace Sys2Proof.Machine

/-- R10: `Leaf(sym, weight)` or `Internal(weight, left, right)`. The 9-bit field can spell 257..511, but no rule lets
such a symbol into the tree store (R173, R149), so a leaf holds a symbol 0..256. -/
inductive Tree where
  /-- `Leaf(sym, weight)`. -/
  | leaf (sym : Symbol) (weight : Nat)
  /-- `Internal(weight, left, right)`. -/
  | internal (weight : Nat) (left right : Tree)
deriving DecidableEq, Repr

/-- The weight field of a node (R10). -/
def Tree.weight : Tree → Nat
  | .leaf _ w => w
  | .internal w _ _ => w

/-- Whether a node is a leaf. -/
def Tree.isLeaf : Tree → Bool
  | .leaf _ _ => true
  | .internal _ _ _ => false

/-- The number of leaves, L of R91 and R171. -/
def Tree.leaves : Tree → Nat
  | .leaf _ _ => 1
  | .internal _ l r => l.leaves + r.leaves

/-- The number of internal nodes, I of R91 and R171. -/
def Tree.internals : Tree → Nat
  | .leaf _ _ => 0
  | .internal _ l r => 1 + l.internals + r.internals

/-- `tree.nnodes` of a tree (R32). -/
def Tree.nnodes : Tree → Nat
  | .leaf _ _ => 1
  | .internal _ l r => 1 + l.nnodes + r.nnodes

/-- The length of the longest root-to-leaf path (R149). -/
def Tree.depth : Tree → Nat
  | .leaf _ _ => 0
  | .internal _ l r => 1 + max l.depth r.depth

/-- The leaf symbols, left to right. -/
def Tree.symbols : Tree → List Symbol
  | .leaf s _ => [s]
  | .internal _ l r => l.symbols ++ r.symbols

/-- Every internal node's weight is the sum of its children's (R148). -/
def Tree.sumsHold : Tree → Bool
  | .leaf _ _ => true
  | .internal w l r => w == l.weight + r.weight && l.sumsHold && r.sumsHold

/-- The tree with every weight 0, as TREE.DESER loads it (R148, R176). -/
def Tree.weightless : Tree → Tree
  | .leaf s _ => .leaf s 0
  | .internal _ l r => .internal 0 l.weightless r.weightless

/-- R10 `subtree(t, P)`: `left` for 0 and `right` for 1 (R151). `none` where the spec calls it undefined: P passes
through a leaf. -/
def Tree.subtree : Tree → Bits → Option Tree
  | t, [] => some t
  | .leaf _ _, _ :: _ => none
  | .internal _ l _, false :: p => l.subtree p
  | .internal _ _ r, true :: p => r.subtree p

/-- R88: the serialized tree, in pre-order. Weights are not serialized. -/
def Tree.ser : Tree → Bits
  | .leaf s _ => true :: bitsOf 9 s.val
  | .internal _ l r => false :: (l.ser ++ r.ser)

/-- R34: `code.cw[0..256]`, by symbol. -/
abbrev CodeTable := List (Option Bits)

/-- All of `code.cw` none (R40, R143, R172). -/
def CodeTable.empty : CodeTable := List.replicate 257 none

/-- R150 `Visit(t, P)`: left first, so the leaf visited last keeps a repeated symbol (R152). -/
def Tree.visit : Tree → Bits → CodeTable → CodeTable
  | .leaf s _, p, cw => cw.set s.val (some p)
  | .internal _ l r, p, cw => r.visit (p ++ [true]) (l.visit (p ++ [false]) cw)

/-- The code table CODE.DERIVE makes of a tree (R150). -/
def Tree.codes (t : Tree) : CodeTable := t.visit [] CodeTable.empty

/-- `code.cw[s]`; an index past 256 has no entry (R34). -/
def CodeTable.lookup (cw : CodeTable) (s : Nat) : Option Bits := cw.getD s none

end Sys2Proof.Machine
end

