-- ==== Sys2Proof/Config.lean ====
section
/-! DEFINITION. The implementation parameters of R6 and the values the spec leaves open: `MAGIC` (D4), the choice a
`TIE_BREAK` policy other than `TB_SEQ` makes (D12), and the unobservable reader accumulator width (R27, R108). -/

namespace Sys2Proof

/-- R146: one operation on TREE.BUILD's collection Q. A `TIE_BREAK` policy is a function of the sequence of them. -/
inductive QueueOp where
  /-- `Insert(Q, t)`. -/
  | insert (t : Machine.Tree)
  /-- `RemoveMin(Q)`. -/
  | removeMin
deriving DecidableEq, Repr

/-- R6 `TIE_BREAK`. -/
inductive TieBreak where
  /-- The default `TB_SEQ`: the least pair (weight, insertion sequence) leaves first (R146). -/
  | tbSeq
  /-- Any other consistent policy, by number: `Config.tieChoice` says which least-weight node it takes. -/
  | other (policy : Nat)
deriving DecidableEq, Repr

/-- R6: the parameters a model takes as arguments. They are fixed for a machine; the model carries them in its state
as plain data, no command writes them, and a statement about every state holds for every value of them
(DESIGN CHOICE, log entry 2). -/
structure Params where
  /-- `MAGIC`, any 32-bit value (D4). -/
  magic : Word
  /-- `CNT_W`, the width of a frequency counter and of a node weight; default 32 (D14). -/
  cntW : Nat
  /-- `NODE_CAP`, the capacity of the tree store in nodes; at least 513, default 513 (D17). -/
  nodeCap : Nat
  /-- `TIE_BREAK`; default `TB_SEQ` (D12). -/
  tieBreak : TieBreak
deriving DecidableEq, Repr

/-- The value of the magic constant: no source gives it (N3, D4), so nothing here does either (log entry 3). -/
opaque Config.magic : Word

/-- Which of several least-weight nodes policy `p` removes, as a position among them in insertion order, after the
given operations on Q (R146, D12). Open: any consistent policy (log entry 4). -/
opaque Config.tieChoice : (p : Nat) → List QueueOp → Nat

/-- `RVAL` of the command with this opcode where its count does not fit 32 bits. R82 reduces only the counts of FREQ.COUNT,
COMPRESS and DECOMPRESS modulo 2^32, R6 puts no upper bound on `NODE_CAP`, and no rule states the result of TREE.SER,
TREE.DESER or ENC.SYM there: a free value (DESIGN CHOICE, log entry 20). -/
opaque Config.wideCount : (opcode count : Nat) → Word

/-- `ACC_W`, the reader's accumulator width: microarchitectural, unobservable, at least 39 (R27, R108; log entry 5). -/
abbrev Config.accW : Nat := 39

/-- The defaults of R6, with `MAGIC` left open. -/
def Config.defaults : Params where
  magic := Config.magic
  cntW := 32
  nodeCap := 513
  tieBreak := .tbSeq

end Sys2Proof
end

