-- ==== Sys2Proof/Machine/State.lean ====
section
/-! DEFINITION. The state of the block and of its host side (10_state.md R20 to R40), why a step can stop, and the
state after reset. -/

namespace Sys2Proof.Machine

/-- `rd.st` and `wr.st` (R23, R28): OPEN, CLOSED, FAILED. -/
inductive UnitState where
  /-- OPEN: commands are accepted. -/
  | opened
  /-- CLOSED: the close command has released the resource. -/
  | closed
  /-- FAILED: an I/O failure has occurred. -/
  | failed
deriving DecidableEq, Repr

/-- `dec.st` (R35): IDLE, READY, DONE, FAILED. -/
inductive DecState where
  /-- IDLE: no tree is loaded. -/
  | idle
  /-- READY: a tree is loaded and DEC.STEP may descend. -/
  | ready
  /-- DONE: the last DEC.STEP reached the sentinel leaf. -/
  | done
  /-- FAILED: the last DEC.STEP raised an error. -/
  | failed
deriving DecidableEq, Repr

/-- The reader's buffer and accumulator, as the reference datapath of R108 holds them: `acc` holds `cnt` valid bits
right-aligned, and `nxt` is the index of the next byte to fetch. Unobservable (R27). -/
structure ReadBuffer where
  /-- The bit accumulator. -/
  acc : BitVec Config.accW
  /-- How many of its low bits are valid. -/
  cnt : Nat
  /-- The index of the next byte to fetch. -/
  nxt : Nat
deriving DecidableEq, Repr

/-- The RD unit (R23 to R27). -/
structure Reader where
  /-- `rd.st` (R23). -/
  st : UnitState
  /-- `rd.pos`: the bits consumed since the start or the last successful RD.RESET (R24). -/
  pos : Nat
  /-- The RD buffer and accumulator (R27, R40). -/
  buf : ReadBuffer
deriving DecidableEq, Repr

/-- The WR unit (R28, R29). -/
structure Writer where
  /-- `wr.st` (R28). -/
  st : UnitState
  /-- `wr.pend`: the bits written but not yet formed into a byte (R29). -/
  pend : Bits
deriving DecidableEq, Repr

/-- The FREQ unit (R31). -/
structure Freq where
  /-- `freq.cnt[0..255]`, in order. -/
  cnt : List Nat
  /-- `freq.total`. -/
  total : Nat
deriving DecidableEq, Repr

/-- The tree store (R32). -/
structure TreeStore where
  /-- `tree.root`. -/
  root : Option Tree
  /-- `tree.nnodes`. -/
  nnodes : Nat
deriving DecidableEq, Repr

/-- The CODE unit (R34). -/
structure Code where
  /-- `code.valid`. -/
  valid : Bool
  /-- `code.cw[0..256]`, in order. -/
  cw : CodeTable
deriving DecidableEq, Repr

/-- The DEC unit (R35, R36). -/
structure Decoder where
  /-- `dec.st` (R35). -/
  st : DecState
  /-- `dec.path`: the path from `tree.root` to the decoder's current node (R36). -/
  path : Bits
deriving DecidableEq, Repr

/-- A stream of host draws (R106, R123), as plain data: the draws to come, then the one value of every draw after
them. The model's own form of a free input: a statement about every state holds for every value of it (log entry 6). -/
structure Draws where
  /-- The next draws, first one first. -/
  coming : List Bool
  /-- Every draw past the list. -/
  after : Bool
deriving DecidableEq, Repr

/-- What the host does between two commands (R20, R260, R269). -/
inductive HostAct where
  /-- Write `CMD` and `DATA` and issue the command (R269). -/
  | issue (cmd data : Word)
  /-- A hardware reset that binds the source port to `src` and the sink port to a fresh sink (R260). -/
  | reset (src : List Byte)
deriving DecidableEq, Repr

/-- The host side (R20, R25, R30, R266): the source, the sink, what the host will do next, and its draws. -/
structure HostSide where
  /-- `SRC`: the bytes the source delivers from its start; fixed from one reset to the next (R25, R266 H2). -/
  src : List Byte
  /-- `OUT`: the bytes the sink has accepted, in order (R30). -/
  out : List Byte
  /-- What the host will do, next act first. -/
  plan : List HostAct
  /-- Source draws: is the answer `IOERR`? (R106, R264) -/
  srcErr : Draws
  /-- Sink draws: is the answer `IOERR`? (R123, R265) -/
  sinkErr : Draws
  /-- For a `SinkPut` answered `IOERR`: did the byte reach `OUT` all the same? (R123, D31) -/
  landed : Draws
deriving DecidableEq, Repr

/-- Everything the spec gives the machine and its host side: the table of R40, plus the parameters of R6. -/
structure State where
  /-- `CMD` (R21, R71). -/
  cmd : Word
  /-- `DATA` (R21, R72). -/
  data : Word
  /-- `RSTAT` (R21, R79). -/
  rstat : Word
  /-- `RVAL` (R21, R82). -/
  rval : Word
  /-- `step`: the step of the macro command being carried out, 0 when none is (R22). -/
  macroStep : Fin 10
  /-- The reader. -/
  rd : Reader
  /-- The writer. -/
  wr : Writer
  /-- The frequency table. -/
  freq : Freq
  /-- The tree store. -/
  tree : TreeStore
  /-- The code table. -/
  code : Code
  /-- The decoder. -/
  dec : Decoder
  /-- The host side. -/
  host : HostSide
  /-- The implementation parameters (R6). -/
  params : Params
deriving DecidableEq, Repr

/-- Why a step can stop. The spec answers every command and every reserved encoding with a status (R74, R230), so
only a case the spec calls undefined is here. -/
inductive Fault where
  /-- `subtree(tree.root, dec.path)` is undefined because the path passes through a leaf (R10). Raised by the
  descent of DEC.STEP, alone or inside DECOMPRESS, in a state with such a path; R36 excludes it from every run.
  Safe: the model stops where the spec gives no node to act on. -/
  | undefinedSubtree
deriving DecidableEq, Repr

/-- Why an instruction has no meaning. -/
inductive Refusal where
  /-- Raised by `exec` for an instruction that has no meaning yet: none. Safe: the model stops. -/
  | notModelled (mnemonic : String)
deriving DecidableEq, Repr

/-- The RD buffer after reset, rewind or close: empty, next byte 0 (R40, R104, R105, R108). -/
def ReadBuffer.empty : ReadBuffer := { acc := 0, cnt := 0, nxt := 0 }

/-- Draws with no `IOERR` in them. -/
def Draws.none : Draws := { coming := [], after := false }

/-- The state after reset: the reset column of R40, applied by R260. `CMD` and `DATA` are unspecified there and 0
here (log entry 1); the host side starts with an empty source, nothing planned and no draw (log entries 6, 7, 8). -/
def State.reset : State where
  cmd := 0
  data := 0
  rstat := 0
  rval := 0
  macroStep := 0
  rd := { st := .opened, pos := 0, buf := ReadBuffer.empty }
  wr := { st := .opened, pend := [] }
  freq := { cnt := List.replicate 256 0, total := 0 }
  tree := { root := none, nnodes := 0 }
  code := { valid := false, cw := CodeTable.empty }
  dec := { st := .idle, path := [] }
  host := { src := [], out := [], plan := [], srcErr := Draws.none, sinkErr := Draws.none, landed := Draws.none }
  params := Config.defaults

end Sys2Proof.Machine
end

