-- ==== Sys2Proof/Machine/Flags.lean ====
section
/-! DEFINITION. The status word, the block's only condition state (R37): statuses and details (R80, R81), decoder
events (R83), and the packing of `RSTAT` (R79). -/

namespace Sys2Proof.Machine

/-- The causes of an error answer, one per row of R81 (R231 to R236). -/
inductive Err where
  /-- END_OF_STREAM (R232). -/
  | endOfStream
  /-- INVALID_ARGUMENT (R231). -/
  | invalidArgument
  /-- FORMAT_VIOLATION(NO_MAGIC) (R233). -/
  | noMagic
  /-- FORMAT_VIOLATION(BAD_MAGIC) (R233). -/
  | badMagic
  /-- FORMAT_VIOLATION(SYMBOL_RANGE) (R173). -/
  | symbolRange
  /-- FORMAT_VIOLATION(NODE_CAP) (R174). -/
  | nodeCap
  /-- FORMAT_VIOLATION(LEAF_ROOT) (R210). -/
  | leafRoot
  /-- RESOURCE_ERROR(SOURCE_IO) (R106). -/
  | sourceIO
  /-- RESOURCE_ERROR(SINK_IO) (R123). -/
  | sinkIO
  /-- RESOURCE_ERROR(STICKY_RD) (R240). -/
  | stickyRd
  /-- RESOURCE_ERROR(STICKY_WR) (R240). -/
  | stickyWr
  /-- ILLEGAL_COMMAND(RESERVED_OPCODE) (R74, R77). -/
  | reservedOpcode
  /-- ILLEGAL_COMMAND(RESERVED_BITS) (R74, R77). -/
  | reservedBits
  /-- ILLEGAL_COMMAND(UNIT_CLOSED) (R235). -/
  | unitClosed
  /-- ILLEGAL_COMMAND(SYM_RANGE) (R190). -/
  | symRange
  /-- ILLEGAL_COMMAND(NO_TREE) (R235). -/
  | noTree
  /-- ILLEGAL_COMMAND(NO_CODE_TABLE) (R190). -/
  | noCodeTable
  /-- ILLEGAL_COMMAND(NO_CODEWORD) (R191). -/
  | noCodeword
  /-- ILLEGAL_COMMAND(DECODER_NOT_READY) (R210). -/
  | decoderNotReady
  /-- CAPACITY (R142). -/
  | capacity
deriving DecidableEq, Repr

/-- R80: the status code of a cause. -/
def Err.status : Err → BitVec 4
  | .endOfStream => 1
  | .invalidArgument => 2
  | .noMagic | .badMagic | .symbolRange | .nodeCap | .leafRoot => 3
  | .sourceIO | .sinkIO | .stickyRd | .stickyWr => 4
  | .reservedOpcode | .reservedBits | .unitClosed | .symRange | .noTree | .noCodeTable | .noCodeword
  | .decoderNotReady => 5
  | .capacity => 6

/-- R81: the detail code of a cause within its status; 0 where the status has one cause. -/
def Err.detail : Err → BitVec 8
  | .endOfStream | .invalidArgument | .capacity => 0
  | .noMagic | .sourceIO | .reservedOpcode => 1
  | .badMagic | .sinkIO | .reservedBits => 2
  | .symbolRange | .stickyRd | .unitClosed => 3
  | .nodeCap | .stickyWr | .symRange => 4
  | .leafRoot | .noTree => 5
  | .noCodeTable => 6
  | .noCodeword => 7
  | .decoderNotReady => 8

/-- R79: `RSTAT` from its fields, bits 31:25 and 15:14 reserved and 0. -/
def rstatWord (status : BitVec 4) (detail : BitVec 8) (event : BitVec 2) (rsym : BitVec 9) : Word :=
  0#7 ++ rsym ++ 0#2 ++ event ++ detail ++ status

/-- R79 `STATUS`. -/
def rstatStatus (w : Word) : BitVec 4 := w.extractLsb' 0 4

/-- R79 `DETAIL`. -/
def rstatDetail (w : Word) : BitVec 8 := w.extractLsb' 4 8

/-- R79 `EVENT`. -/
def rstatEvent (w : Word) : BitVec 2 := w.extractLsb' 12 2

/-- R79 `RSYM`. -/
def rstatSym (w : Word) : BitVec 9 := w.extractLsb' 16 9

/-- R79, R239: `RSTAT` of an error answer: EVENT and RSYM are 0. -/
def Err.rstat (e : Err) : Word := rstatWord e.status e.detail 0 0

/-- R83: what a DEC.STEP that answered OK did. -/
inductive DecEvent where
  /-- CONTINUE: the step reached an internal node. -/
  | continued
  /-- EMITTED: the step reached a data leaf and wrote its symbol. -/
  | emitted (sym : Symbol)
  /-- DONE: the step reached the sentinel leaf. -/
  | done
deriving DecidableEq, Repr

/-- R83: the EVENT code. -/
def DecEvent.code : DecEvent → BitVec 2
  | .continued => 0
  | .emitted _ => 1
  | .done => 2

/-- R79, R83: the RSYM field: the leaf's symbol when EVENT is EMITTED or DONE, else 0. -/
def DecEvent.rsym : DecEvent → BitVec 9
  | .continued => 0
  | .emitted s => BitVec.ofNat 9 s.val
  | .done => BitVec.ofNat 9 sentinel.val

/-- What an OK answer carries: the result word (R82) and, for DEC.STEP, the event and its symbol (R83). -/
structure Answer where
  /-- `RVAL`. -/
  rval : Word
  /-- `EVENT`. -/
  event : BitVec 2
  /-- `RSYM`. -/
  rsym : BitVec 9
deriving DecidableEq, Repr

/-- `respond(rval)` (R12): EVENT and RSYM are 0 for every command but DEC.STEP (R79). -/
def Answer.value (rval : Word) : Answer := { rval := rval, event := 0, rsym := 0 }

/-- The answer of DEC.STEP (R82, R83): RVAL is 0. -/
def Answer.ofEvent (e : DecEvent) : Answer := { rval := 0, event := e.code, rsym := e.rsym }

/-- R79: `RSTAT` of an OK answer (status 0, detail 0). -/
def Answer.rstat (a : Answer) : Word := rstatWord 0 0 a.event a.rsym

end Sys2Proof.Machine
end

