-- ==== Sys2Proof/Machine/Ops.lean ====
section
/-! DEFINITION. The named operations every command is made of: sequencing and `raise` (R11, R12), answering a command
and answering an error (R239), PreCheck (R238), the two ports (R264, R265), ReadBits (R102), WriteList and EmitByte
(R122, R124), and what the host does between commands (R260, R269). -/

namespace Sys2Proof.Machine

/-! ### One-field updates -/

/-- Write the RD unit. -/
def State.setRd (s : State) (r : Reader) : State := { s with rd := r }
/-- Write the WR unit. -/
def State.setWr (s : State) (w : Writer) : State := { s with wr := w }
/-- Write the FREQ unit. -/
def State.setFreq (s : State) (f : Freq) : State := { s with freq := f }
/-- Write the tree store. -/
def State.setTree (s : State) (t : TreeStore) : State := { s with tree := t }
/-- Write the CODE unit. -/
def State.setCode (s : State) (c : Code) : State := { s with code := c }
/-- Write the DEC unit. -/
def State.setDec (s : State) (d : Decoder) : State := { s with dec := d }
/-- Write the host side. -/
def State.setHost (s : State) (h : HostSide) : State := { s with host := h }
/-- R12 `step <- k`. -/
def State.setMacroStep (s : State) (k : Fin 10) : State := { s with macroStep := k }

/-! ### Sequencing and raise -/

/-- How a piece of a command ends. -/
inductive Res (α : Type) where
  /-- It goes on with a value. -/
  | ok (a : α) (s : State)
  /-- `raise`: the command ends with this error; the state holds every write made before the raise (R11). -/
  | raise (e : Err) (s : State)

/-- Program order (R11, R60): the next piece runs only where the first one did not raise. -/
def Res.bind {α β : Type} (r : Res α) (k : α → State → Res β) : Res β :=
  match r with
  | .ok a s => k a s
  | .raise e s => .raise e s

/-- "On any raise: …, then raise it again" (R172, R210). -/
def Res.onRaise {α : Type} (r : Res α) (f : State → State) : Res α :=
  match r with
  | .ok a s => .ok a s
  | .raise e s => .raise e (f s)

/-! ### Answering -/

/-- R82: `RVAL` of TREE.SER, TREE.DESER and ENC.SYM, by opcode: the count itself, and a free value where it does not fit
32 bits, for which no rule states the result (DESIGN CHOICE, log entry 20). -/
def countWord (opcode n : Nat) : Word := if n < 2 ^ 32 then resultWord n else Config.wideCount opcode n

/-- `respond` (R12, R79, R82): status OK; `step` is 0 whenever no command is executing (R22). -/
def State.answer (a : Answer) (s : State) : State :=
  { s with rstat := a.rstat, rval := a.rval, macroStep := 0 }

/-- What an error does, the block's "trap entry" (R239): RSTAT takes the status and detail, RVAL is 0, the command
ends. It saves nothing, changes no mode and jumps nowhere; there is no return from it (R241). -/
def State.answerError (e : Err) (s : State) : State :=
  { s with rstat := e.rstat, rval := 0, macroStep := 0 }

/-- The state a command leaves (R230: exactly one status). -/
def settle (r : Res Answer) : State :=
  match r with
  | .ok a s => s.answer a
  | .raise e s => s.answerError e

/-- The end of a command: it answers (R230). -/
def finish (r : Res Answer) : Host.Outcome State Fault Refusal := .next (settle r)

/-- The end of a command one of whose actions the spec may call undefined (`none`, R10): there it stops. -/
def finishDefined (r : Res (Option Answer)) : Host.Outcome State Fault Refusal :=
  match r with
  | .ok (some a) s => .next (s.answer a)
  | .ok none _ => .fault .undefinedSubtree
  | .raise e s => .next (s.answerError e)

/-! ### PreCheck -/

/-- The two stream units a command may use (R78). -/
inductive StreamUnit where
  /-- RD. -/
  | rd
  /-- WR. -/
  | wr
deriving DecidableEq, Repr

/-- R238 `PreCheck(U)`: CLOSED before FAILED, RD before WR. -/
def preCheck (u : List StreamUnit) (s : State) : Res PUnit :=
  if StreamUnit.rd ∈ u ∧ s.rd.st = .closed then .raise .unitClosed s
  else if StreamUnit.wr ∈ u ∧ s.wr.st = .closed then .raise .unitClosed s
  else if StreamUnit.rd ∈ u ∧ s.rd.st = .failed then .raise .stickyRd s
  else if StreamUnit.wr ∈ u ∧ s.wr.st = .failed then .raise .stickyWr s
  else .ok ⟨⟩ s

/-! ### The ports -/

/-- The next draw, and the draws left. -/
def Draws.draw (d : Draws) : Bool × Draws :=
  match d.coming with
  | [] => (d.after, d)
  | b :: rest => (b, { d with coming := rest })

/-- A source port draw: `true` is `IOERR` (R106, R264). `SourceFault()`, `SrcRewind()` and `SrcRelease()` each take one. -/
def sourceDraw (s : State) : Bool × State :=
  (s.host.srcErr.draw.1, s.setHost { s.host with srcErr := s.host.srcErr.draw.2 })

/-- A sink port draw: `true` is `IOERR` (R123, R265). `SinkPut` and `SinkRelease()` each take one. -/
def sinkDraw (s : State) : Bool × State :=
  (s.host.sinkErr.draw.1, s.setHost { s.host with sinkErr := s.host.sinkErr.draw.2 })

/-- The draw of R123 for a refused byte: `true` is "it reached `OUT`". -/
def landedDraw (s : State) : Bool × State :=
  (s.host.landed.draw.1, s.setHost { s.host with landed := s.host.landed.draw.2 })

/-- The sink accepts a byte: `OUT <- OUT ++ [b]` (R30, R122). -/
def sinkAccept (b : Byte) (s : State) : State := s.setHost { s.host with out := s.host.out ++ [b] }

/-- R265 `SinkPut(b)`: the answer is `IOERR`? On OK the byte is appended; on `IOERR` whether it was is a draw (R123). -/
def sinkPut (b : Byte) (s : State) : Bool × State :=
  if (sinkDraw s).1 then
    (true, if (landedDraw (sinkDraw s).2).1 then sinkAccept b (landedDraw (sinkDraw s).2).2
           else (landedDraw (sinkDraw s).2).2)
  else (false, sinkAccept b (sinkDraw s).2)

/-- R264 `SrcFetch(i)` where the answer is not `IOERR`: byte i, or `EOF` as `none`. -/
def srcFetch (src : List Byte) (i : Nat) : Option Byte := src[i]?

/-! ### The reader -/

/-- R108: fetch bytes into the accumulator while it holds fewer than n bits and the source has a byte. At most n
fetches can be needed, since each brings 8 bits. -/
def ReadBuffer.refill (src : List Byte) (n : Nat) : Nat → ReadBuffer → ReadBuffer
  | 0, b => b
  | fuel + 1, b =>
    if b.cnt < n then
      match srcFetch src b.nxt with
      | none => b
      | some byte =>
        ReadBuffer.refill src n fuel
          { acc := (b.acc <<< 8) ||| byte.setWidth Config.accW, cnt := b.cnt + 8, nxt := b.nxt + 1 }
    else b

/-- R108: the value the accumulator holds for a read of n bits. -/
def ReadBuffer.value (b : ReadBuffer) (n : Nat) : Nat := (b.acc >>> (b.cnt - n)).toNat % 2 ^ n

/-- R108: n bits leave the accumulator. -/
def ReadBuffer.consume (b : ReadBuffer) (n : Nat) : ReadBuffer := { b with cnt := b.cnt - n }

/-- R106: the reader after a source fault. -/
def State.failRd (s : State) : State := s.setRd { s.rd with st := .failed }

/-- The buffer a read of n bits leaves before any bit is consumed. -/
def State.refilled (n : Nat) (s : State) : State :=
  s.setRd { s.rd with buf := s.rd.buf.refill s.host.src n n }

/-- `rd.pos <- rd.pos + n`, with the accumulator kept in step (R102, R108). -/
def State.advanced (n : Nat) (s : State) : State :=
  s.setRd { s.rd with pos := s.rd.pos + n, buf := s.rd.buf.consume n }

/-- R102 `ReadBits(n)`: a source fault first, then END_OF_STREAM with `rd.pos` unchanged, else the next n bits. -/
def readBits (n : Nat) (s : State) : Res Nat :=
  if (sourceDraw s).1 then .raise .sourceIO (sourceDraw s).2.failRd
  else if 8 * s.host.src.length < s.rd.pos + n then .raise .endOfStream ((sourceDraw s).2.refilled n)
  else .ok (val (bitsAt s.host.src s.rd.pos n)) (((sourceDraw s).2.refilled n).advanced n)

/-! ### The writer -/

/-- Write `wr.pend`. -/
def State.setPend (s : State) (p : Bits) : State := s.setWr { s.wr with pend := p }

/-- R122: the writer after a sink fault. -/
def State.failWr (s : State) : State := s.setWr { st := .failed, pend := [] }

/-- R122 `EmitByte(b)`. -/
def emitByte (b : Byte) (s : State) : Res PUnit :=
  if (sinkPut b s).1 then .raise .sinkIO (sinkPut b s).2.failWr
  else .ok ⟨⟩ (sinkPut b s).2

/-- One round of R124's loop: append a bit, and deliver the byte it completes. -/
def writeBit (b : Bool) (s : State) : Res PUnit :=
  if (s.wr.pend ++ [b]).length = 8 then
    (emitByte (byteOf (s.wr.pend ++ [b])) (s.setPend (s.wr.pend ++ [b]))).bind fun _ s' => .ok ⟨⟩ (s'.setPend [])
  else .ok ⟨⟩ (s.setPend (s.wr.pend ++ [b]))

/-- R124 `WriteList(L)`. -/
def writeList : Bits → State → Res PUnit
  | [], s => .ok ⟨⟩ s
  | b :: rest, s => (writeBit b s).bind fun _ s' => writeList rest s'

/-- R124 `WriteBits(n, v) = WriteList(bits_n(v))`. -/
def writeBits (n v : Nat) (s : State) : Res PUnit := writeList (bitsOf n v) s

/-! ### The host, between commands -/

/-- R269: the host has written `CMD` and `DATA` and raised the request. -/
def acceptCommand (cmd data : Word) (rest : List HostAct) (s : State) : State :=
  { s with cmd := cmd, data := data, host := { s.host with plan := rest } }

/-- R74, R239: a command word refused by decode changes only RSTAT and RVAL. -/
def refuseCommand (e : DecodeError) (s : State) : State :=
  match e with
  | .reservedOpcode => s.answerError .reservedOpcode
  | .reservedBits => s.answerError .reservedBits

/-- R260: a hardware reset. Every field takes its reset value, the source port is bound to `src` and the sink port to
a fresh sink. The parameters and what the host will still do and draw are not the block's to reset. -/
def hardReset (src : List Byte) (rest : List HostAct) (s : State) : State :=
  { State.reset with params := s.params, host := { s.host with src := src, out := [], plan := rest } }

/-- R248, R261: with no command issued the block is idle and keeps all state. -/
def idle (s : State) : State := s

/-- The command word and operand word of an instruction whose bits are `w`, the first word lowest (R70). -/
def commandWords (nbits w : Nat) : Word × Word :=
  (BitVec.ofNat 32 (w % 2 ^ nbits), BitVec.ofNat 32 (w % 2 ^ nbits / 2 ^ 32))

/-- The host's next act becomes the issue of this command (log entry 8). -/
def planCommand (cmd data : Word) (s : State) : State :=
  s.setHost { s.host with plan := .issue cmd data :: s.host.plan }

end Sys2Proof.Machine
end

