-- ==== Sys2Proof/Machine/Queue.lean ====
section
/-! DEFINITION. TREE.BUILD's collection Q and the greedy construction over it (R143 to R148). -/

namespace Sys2Proof.Machine

/-- A node in Q with the sequence number `Insert` gave it (R146). -/
structure QNode where
  /-- The insertion sequence number. -/
  seq : Nat
  /-- The node. -/
  tree : Tree
deriving DecidableEq, Repr

/-- The collection Q: its nodes in insertion order, the next sequence number, and the operations so far (R146). -/
structure Queue where
  /-- The nodes, oldest first. -/
  items : List QNode
  /-- The next value of `seq`. -/
  next : Nat
  /-- The operations on Q so far, oldest first. -/
  hist : List QueueOp
deriving DecidableEq, Repr

/-- The empty collection (R143). -/
def Queue.empty : Queue := { items := [], next := 0, hist := [] }

/-- R146 `Insert(Q, t)`. -/
def Queue.insert (q : Queue) (t : Tree) : Queue :=
  { items := q.items ++ [{ seq := q.next, tree := t }], next := q.next + 1, hist := q.hist ++ [.insert t] }

/-- `TB_SEQ`: the lexicographic order of the pairs (weight, seq) (R146). -/
def QNode.before (a b : QNode) : Bool :=
  a.tree.weight < b.tree.weight || (a.tree.weight == b.tree.weight && a.seq < b.seq)

/-- The node with the least pair (weight, seq) of a non-empty collection. -/
def leastNode (x : QNode) (xs : List QNode) : QNode :=
  xs.foldl (fun best y => if y.before best then y else best) x

/-- The node `RemoveMin` takes from a non-empty collection: always one of least weight (R146). -/
def chooseMin (tb : TieBreak) (hist : List QueueOp) (x : QNode) (xs : List QNode) : QNode :=
  match tb with
  | .tbSeq => leastNode x xs
  | .other p =>
    let light := (x :: xs).filter fun y => y.tree.weight == (leastNode x xs).tree.weight
    light.getD (Config.tieChoice p hist % light.length) (leastNode x xs)

/-- R146 `RemoveMin(Q)`: the node taken, and what is left. -/
def Queue.removeMin (tb : TieBreak) (q : Queue) : Option (Tree × Queue) :=
  match q.items with
  | [] => none
  | x :: xs =>
    let c := chooseMin tb q.hist x xs
    some (c.tree, { q with items := (x :: xs).eraseP (fun y => y.seq == c.seq), hist := q.hist ++ [.removeMin] })

/-- R143: one leaf per chunk value with a non-zero count, in ascending chunk value (R145). `c` is the first chunk value
of the list. -/
def seedLeaves : Nat → List Nat → List Tree
  | _, [] => []
  | c, n :: rest =>
    if 0 < n then .leaf (Fin.ofNat 257 c) n :: seedLeaves (c + 1) rest else seedLeaves (c + 1) rest

/-- R143 to R145: the seeded collection: the chunk leaves, the sentinel with weight 1, and the padding leaf where
fewer than two nodes were seeded. -/
def seedQueue (cnt : List Nat) : Queue :=
  let q := ((seedLeaves 0 cnt).foldl Queue.insert Queue.empty).insert (.leaf sentinel 1)
  if q.items.length < 2 then q.insert (.leaf 0 0) else q

/-- R143: `while |Q| > 1`: combine the two nodes removed first, the first on the left. Each round leaves one node fewer,
so `fuel = |Q|` rounds are enough. -/
def mergeLoop (tb : TieBreak) : Nat → Queue → Queue
  | 0, q => q
  | fuel + 1, q =>
    if q.items.length ≤ 1 then q
    else
      match q.removeMin tb with
      | none => q
      | some (a, q1) =>
        match q1.removeMin tb with
        | none => q1
        | some (b, q2) => mergeLoop tb fuel (q2.insert (.internal (a.weight + b.weight) a b))

/-- R143: `tree.root <- the single node left in Q`. -/
def buildTree (tb : TieBreak) (cnt : List Nat) : Option Tree :=
  match (mergeLoop tb (seedQueue cnt).items.length (seedQueue cnt)).items with
  | [e] => some e.tree
  | _ => none

/-- R6 `MAX_CHUNKS = 2^CNT_W - 2`: the most chunks FREQ.COUNT accepts (R142). -/
def maxChunks (p : Params) : Nat := 2 ^ p.cntW - 2

/-- R6, R156 `CODE_MAX = floor((NODE_CAP - 1) / 2)`: the longest codeword the code table holds. -/
def codeMax (p : Params) : Nat := (p.nodeCap - 1) / 2

end Sys2Proof.Machine
end

