-- ==== Sys2Proof/Machine/Build.lean ====
section
/-! DEFINITION. FREQ.COUNT, TREE.BUILD and CODE.DERIVE (42_tree_build.md). -/

namespace Sys2Proof.Machine

/-- All counters 0 (R140). -/
def Freq.zero : Freq := { cnt := List.replicate 256 0, total := 0 }

/-- `freq.cnt[v] <- freq.cnt[v] + 1`, `freq.total <- freq.total + 1` (R140). -/
def Freq.bump (f : Freq) (v : Nat) : Freq := { cnt := f.cnt.modify v (· + 1), total := f.total + 1 }

/-- The loop of R140. END_OF_STREAM ends it; a chunk past `MAX_CHUNKS` is read and not counted (R142). Each round reads
a whole byte's worth of bits, so `len(SRC) + 1` rounds reach the end of the stream. -/
def countLoop : Nat → State → Res PUnit
  | 0, s => .ok ⟨⟩ s
  | fuel + 1, s =>
    match readBits 8 s with
    | .ok v s' =>
      if s'.freq.total = maxChunks s'.params then .raise .capacity s'
      else countLoop fuel (s'.setFreq (s'.freq.bump v))
    | .raise .endOfStream s' => .ok ⟨⟩ s'
    | .raise e s' => .raise e s'

/-- The body of FREQ.COUNT after its PreCheck (R140). -/
def countBody (s : State) : Res PUnit := countLoop (s.host.src.length + 1) (s.setFreq Freq.zero)

/-- FREQ.COUNT (R140). -/
def execFreqCount (s : State) : Host.Outcome State Fault Refusal :=
  finish <|
    (preCheck [.rd] s).bind fun _ s => (countBody s).bind fun _ s => .ok (.value (resultWord s.freq.total)) s

/-- `code.valid` false and every `code.cw[s]` none (R143, R172). -/
def Code.none : Code := { valid := false, cw := CodeTable.empty }

/-- A tree enters the store (R143, R172): the code table is invalidated and the decoder is READY at the root (R147). -/
def State.loadTree (root : Option Tree) (nnodes : Nat) (s : State) : State :=
  ((s.setTree { root := root, nnodes := nnodes }).setCode Code.none).setDec { st := .ready, path := [] }

/-- The body of TREE.BUILD (R143). -/
def State.builtTree (s : State) : State :=
  s.loadTree (buildTree s.params.tieBreak s.freq.cnt)
    ((buildTree s.params.tieBreak s.freq.cnt).elim 0 Tree.nnodes)

/-- TREE.BUILD (R143). -/
def execTreeBuild (s : State) : Host.Outcome State Fault Refusal := finish (.ok (.value 0) s.builtTree)

/-- CODE.DERIVE (R150), also step 6 of COMPRESS. -/
def deriveBody (s : State) : Res PUnit :=
  match s.tree.root with
  | none => .raise .noTree s
  | some t => .ok ⟨⟩ (s.setCode { valid := true, cw := t.codes })

/-- CODE.DERIVE (R150). -/
def execCodeDerive (s : State) : Host.Outcome State Fault Refusal :=
  finish <| (deriveBody s).bind fun _ s => .ok (.value 0) s

end Sys2Proof.Machine
end

