-- ==== Sys2Proof/Machine/Codec.lean ====
section
/-! DEFINITION. TREE.SER and TREE.DESER (43_tree_codec.md). -/

namespace Sys2Proof.Machine

/-- R170 `Ser(t)`: the marker and symbol of a leaf, or the marker of an internal node and its two subtrees. -/
def serTree : Tree → State → Res PUnit
  | .leaf y _, s => writeList (true :: bitsOf 9 y.val) s
  | .internal _ l r, s => (writeList [false] s).bind fun _ s => (serTree l s).bind fun _ s => serTree r s

/-- The body of TREE.SER after its PreCheck (R170): the number of bits written is 10·L + I (R171). -/
def serBody (s : State) : Res Nat :=
  match s.tree.root with
  | none => .raise .noTree s
  | some t => (serTree t s).bind fun _ s => .ok (10 * t.leaves + t.internals) s

/-- TREE.SER (R170). -/
def execTreeSer (s : State) : Host.Outcome State Fault Refusal :=
  finish <|
    (preCheck [.wr] s).bind fun _ s => (serBody s).bind fun bits s => .ok (.value (countWord 0x31 bits)) s

/-- R172 `Des()`, with the node count k as it goes in and as it comes out. A node at nesting depth d has k ≥ d, and k
never passes `NODE_CAP`, so `NODE_CAP + 1` levels of fuel are enough. -/
def desTree : Nat → Nat → State → Res (Tree × Nat)
  | 0, _, s => .raise .nodeCap s
  | fuel + 1, k, s =>
    if k = s.params.nodeCap then .raise .nodeCap s
    else
      (readBits 1 s).bind fun m s =>
      if m = 0 then
        (desTree fuel (k + 1) s).bind fun left s =>
        (desTree fuel left.2 s).bind fun right s => .ok (.internal 0 left.1 right.1, right.2) s
      else
        (readBits 9 s).bind fun y s =>
        if h : y < 257 then .ok (.leaf ⟨y, h⟩ 0, k + 1) s else .raise .symbolRange s

/-- R172 `FailLoad()`: no tree is loaded (R175). -/
def State.failLoad (s : State) : State :=
  ((s.setTree { root := none, nnodes := 0 }).setCode Code.none).setDec { st := .idle, path := [] }

/-- The body of TREE.DESER after its PreCheck (R172): the number of bits consumed. -/
def deserBody (s : State) : Res Nat :=
  ((desTree (s.params.nodeCap + 1) 0 s).onRaise State.failLoad).bind fun t s' =>
    .ok (s'.rd.pos - s.rd.pos) (s'.loadTree (some t.1) t.2)

/-- TREE.DESER (R172). -/
def execTreeDeser (s : State) : Host.Outcome State Fault Refusal :=
  finish <|
    (preCheck [.rd] s).bind fun _ s => (deserBody s).bind fun bits s => .ok (.value (countWord 0x32 bits)) s

end Sys2Proof.Machine
end

