-- ==== Sys2Proof/Machine/Writer.lean ====
section
/-! DEFINITION. The BitWriter commands WR.WRITE and WR.CLOSE (41_bitwriter.md). -/

namespace Sys2Proof.Machine

/-- WR.WRITE (R121): the low n bits of the operand word, most significant first. -/
def execWrWrite (n : Nat) (value : Word) (s : State) : Host.Outcome State Fault Refusal :=
  finish <|
    (preCheck [.wr] s).bind fun _ s =>
    if legalWidth n then (writeBits n value.toNat s).bind fun _ s => .ok (.value 0) s
    else .raise .invalidArgument s

/-- `wr.pend <- []`, `wr.st <- CLOSED` (R125). -/
def State.closedWr (s : State) : State := s.setWr { st := .closed, pend := [] }

/-- The end of R125: release the sink; the unit is CLOSED whatever the answer. -/
def releaseSink (s : State) : Res PUnit :=
  if (sinkDraw s).1 then .raise .sinkIO (sinkDraw s).2.closedWr
  else .ok ⟨⟩ (sinkDraw s).2.closedWr

/-- The padded last byte (R125). -/
def lastByte (pend : Bits) : Byte := byteOf (pend ++ List.replicate (8 - pend.length) false)

/-- The body of WR.CLOSE for an OPEN writer (R125): pad and flush a partial byte, then release. -/
def closeOpenWriter (s : State) : Res PUnit :=
  if s.wr.pend = [] then releaseSink s
  else if (sinkPut (lastByte s.wr.pend) s).1 then
    .raise .sinkIO (sinkDraw (sinkPut (lastByte s.wr.pend) s).2).2.closedWr
  else releaseSink (sinkPut (lastByte s.wr.pend) s).2

/-- WR.CLOSE (R125): no PreCheck; the sink is released even where the writer has failed. -/
def execWrClose (s : State) : Host.Outcome State Fault Refusal :=
  finish <|
    match s.wr.st with
    | .closed => .raise .unitClosed s
    | .failed => .raise .stickyWr (sinkDraw s).2.closedWr
    | .opened => (closeOpenWriter s).bind fun _ s => .ok (.value 0) s

end Sys2Proof.Machine
end

