-- ==== Sys2Proof/Machine/Decoder.lean ====
section
/-! DEFINITION. DEC.STEP and DECOMPRESS (45_decoder.md). -/

namespace Sys2Proof.Machine

/-- `dec.st <- FAILED` (R210, R212). -/
def State.failDec (s : State) : State := s.setDec { s.dec with st := .failed }

/-- `dec.path <- dec.path ++ [b]` (R210). -/
def State.descended (b : Bool) (s : State) : State := s.setDec { s.dec with path := s.dec.path ++ [b] }

/-- R210: WR must be able to take the byte; CLOSED before FAILED. -/
def writerTakes (s : State) : Res PUnit := preCheck [.wr] s

/-- R210: emit a data symbol as 8 bits and return to the root; every error leaves the decoder FAILED. -/
def emitSymbol (y : Symbol) (s : State) : Res DecEvent :=
  ((writerTakes s).bind fun _ s => writeBits 8 y.val s).onRaise State.failDec |>.bind fun _ s =>
    .ok (.emitted y) (s.setDec { s.dec with path := [] })

/-- R210: act on the node reached. -/
def reachNode (t : Tree) (s : State) : Res DecEvent :=
  match t with
  | .internal _ _ _ => .ok .continued s
  | .leaf y _ => if y = sentinel then .ok .done (s.setDec { s.dec with st := .done }) else emitSymbol y s

/-- The body of DEC.STEP after its PreCheck (R210); `none` where `subtree(tree.root, dec.path)` is undefined (R10). -/
def decBody (s : State) : Res (Option DecEvent) :=
  match s.tree.root with
  | none => .raise .noTree s
  | some root =>
    if s.dec.st ≠ .ready then .raise .decoderNotReady s
    else if root.isLeaf then .raise .leafRoot s.failDec
    else
      ((readBits 1 s).onRaise State.failDec).bind fun b s =>
      match root.subtree (s.descended (b != 0)).dec.path with
      | none => .ok none (s.descended (b != 0))
      | some t => (reachNode t (s.descended (b != 0))).bind fun e s => .ok (some e) s

/-- DEC.STEP (R210). -/
def execDecStep (s : State) : Host.Outcome State Fault Refusal :=
  finishDefined <|
    (preCheck [.rd] s).bind fun _ s => (decBody s).bind fun e s => .ok (e.map Answer.ofEvent) s

/-- Step 1 of DECOMPRESS (R213, R214): the source ending is NO_MAGIC, a source fault stays SOURCE_IO. -/
def checkMagic (s : State) : Res PUnit :=
  match readBits 32 s with
  | .ok m s' => if m = s'.params.magic.toNat then .ok ⟨⟩ s' else .raise .badMagic s'
  | .raise .endOfStream s' => .raise .noMagic s'
  | .raise e s' => .raise e s'

/-- Step 4 of DECOMPRESS (R213): `e` bytes emitted so far. Each round consumes one bit (R219), so the round after the
last bit of the source raises END_OF_STREAM and `8·len(SRC) + 1` rounds are enough. -/
def decodeLoop : Nat → Nat → State → Res (Option Nat)
  | 0, _, s => .raise .endOfStream s
  | fuel + 1, e, s =>
    (decBody s).bind fun ev s =>
    match ev with
    | none => .ok none s
    | some .continued => decodeLoop fuel e s
    | some (.emitted _) => decodeLoop fuel (e + 1) s
    | some .done => .ok (some e) s

/-- Step 5 of DECOMPRESS (R213), reached where step 4 ended with a count. -/
def closeDecoded (e : Option Nat) (s : State) : Res (Option Nat) :=
  match e with
  | none => .ok none s
  | some k => (closeOpenWriter (s.setMacroStep 5)).bind fun _ s => .ok (some k) s

/-- DECOMPRESS after its PreCheck, one line per `step` value (R213). Step 3 is done by step 2, which leaves the decoder
at the root. A raise ends it at once (R215). -/
def decompressBody (s : State) : Res (Option Nat) :=
  (checkMagic (s.setMacroStep 1)).bind fun _ s =>
  (deserBody (s.setMacroStep 2)).bind fun _ s =>
  (decodeLoop (8 * s.host.src.length + 1) 0 ((s.setMacroStep 3).setMacroStep 4)).bind closeDecoded

/-- DECOMPRESS (R213). -/
def execDecompress (s : State) : Host.Outcome State Fault Refusal :=
  finishDefined <|
    (preCheck [.rd, .wr] s).bind fun _ s =>
    (decompressBody s).bind fun e s => .ok (e.map fun k => .value (resultWord k)) s

end Sys2Proof.Machine
end

