-- ==== Sys2Proof/Machine/Reader.lean ====
section
/-! DEFINITION. The BitReader commands RD.READ, RD.RESET and RD.CLOSE (40_bitreader.md). -/

namespace Sys2Proof.Machine

/-- RD.READ (R101). -/
def execRdRead (n : Nat) (s : State) : Host.Outcome State Fault Refusal :=
  finish <|
    (preCheck [.rd] s).bind fun _ s =>
    if legalWidth n then (readBits n s).bind fun v s => .ok (.value (resultWord v)) s
    else .raise .invalidArgument s

/-- `rd.pos <- 0` and the RD buffer discarded (R104). -/
def State.rewound (s : State) : State := s.setRd { s.rd with pos := 0, buf := ReadBuffer.empty }

/-- The body of RD.RESET after its PreCheck (R104): a source fault is drawn before the rewind is requested. -/
def rewindBody (s : State) : Res PUnit :=
  if (sourceDraw s).1 then .raise .sourceIO (sourceDraw s).2.failRd
  else if (sourceDraw (sourceDraw s).2).1 then .raise .sourceIO (sourceDraw (sourceDraw s).2).2.failRd
  else .ok ⟨⟩ (sourceDraw (sourceDraw s).2).2.rewound

/-- RD.RESET (R104). -/
def execRdReset (s : State) : Host.Outcome State Fault Refusal :=
  finish <| (preCheck [.rd] s).bind fun _ s => (rewindBody s).bind fun _ s => .ok (.value 0) s

/-- `rd.st <- CLOSED` and the RD buffer discarded; `rd.pos` keeps its value (R105). -/
def State.closedRd (s : State) : State := s.setRd { s.rd with st := .closed, buf := ReadBuffer.empty }

/-- `rd.st <- CLOSED` alone: a FAILED reader is released, its buffer not touched (R105). -/
def State.releasedRd (s : State) : State := s.setRd { s.rd with st := .closed }

/-- RD.CLOSE (R105): no PreCheck; the source is released even where the reader has failed. -/
def execRdClose (s : State) : Host.Outcome State Fault Refusal :=
  finish <|
    match s.rd.st with
    | .closed => .raise .unitClosed s
    | .failed => .raise .stickyRd (sourceDraw s).2.releasedRd
    | .opened =>
      if (sourceDraw s).1 then .raise .sourceIO (sourceDraw s).2.closedRd
      else .ok (.value 0) (sourceDraw s).2.closedRd

end Sys2Proof.Machine
end

