-- ==== Sys2Proof/Machine/Encoder.lean ====
section
/-! DEFINITION. ENC.SYM and COMPRESS (44_encoder.md). -/

namespace Sys2Proof.Machine

/-- R191 `EncSym(s)`: the whole codeword in one operation; its length. -/
def encodeSymbol (sym : Nat) (s : State) : Res Nat :=
  match s.code.cw.lookup sym with
  | none => .raise .noCodeword s
  | some w => (writeList w s).bind fun _ s => .ok w.length s

/-- ENC.SYM (R190). -/
def execEncSym (sym : Nat) (s : State) : Host.Outcome State Fault Refusal :=
  finish <|
    (preCheck [.wr] s).bind fun _ s =>
    if 256 < sym then .raise .symRange s
    else if s.code.valid = false then .raise .noCodeTable s
    else (encodeSymbol sym s).bind fun len s => .ok (.value (countWord 0x41 len)) s

/-- Step 7 of COMPRESS (R192): `k` chunks encoded so far; END_OF_STREAM ends the loop. Each round reads a whole byte's
worth of bits, so `len(SRC) + 1` rounds reach the end of the stream. -/
def encodeLoop : Nat → Nat → State → Res Nat
  | 0, k, s => .ok k s
  | fuel + 1, k, s =>
    match readBits 8 s with
    | .ok v s' => (encodeSymbol v s').bind fun _ s'' => encodeLoop fuel (k + 1) s''
    | .raise .endOfStream s' => .ok k s'
    | .raise e s' => .raise e s'

/-- COMPRESS after its PreCheck, one line per `step` value (R192). A raise ends it at once (R193). -/
def compressBody (s : State) : Res Nat :=
  (countBody (s.setMacroStep 1)).bind fun _ s =>
  (rewindBody ((s.setMacroStep 2).builtTree.setMacroStep 3)).bind fun _ s =>
  (writeBits 32 s.params.magic.toNat (s.setMacroStep 4)).bind fun _ s =>
  (serBody (s.setMacroStep 5)).bind fun _ s =>
  (deriveBody (s.setMacroStep 6)).bind fun _ s =>
  (encodeLoop (s.host.src.length + 1) 0 (s.setMacroStep 7)).bind fun k s =>
  (encodeSymbol sentinel.val (s.setMacroStep 8)).bind fun _ s =>
  (closeOpenWriter (s.setMacroStep 9)).bind fun _ s => .ok k s

/-- COMPRESS (R192). -/
def execCompress (s : State) : Host.Outcome State Fault Refusal :=
  finish <|
    (preCheck [.rd, .wr] s).bind fun _ s => (compressBody s).bind fun k s => .ok (.value (resultWord k)) s

end Sys2Proof.Machine
end

