-- ==== Sys2Proof/Machine/Dispatch.lean ====
section
/-! DEFINITION. The dispatch of R74: one arm per command of R73. -/

namespace Sys2Proof.Machine

def exec (i : Instr) (s : State) : Host.Outcome State Fault Refusal :=
  match i with
  | .rdRead n => Sys2Proof.Machine.execRdRead n s
  | .rdReset => Sys2Proof.Machine.execRdReset s
  | .rdClose => Sys2Proof.Machine.execRdClose s
  | .wrWrite n value => Sys2Proof.Machine.execWrWrite n value s
  | .wrClose => Sys2Proof.Machine.execWrClose s
  | .freqCount => Sys2Proof.Machine.execFreqCount s
  | .treeBuild => Sys2Proof.Machine.execTreeBuild s
  | .codeDerive => Sys2Proof.Machine.execCodeDerive s
  | .treeSer => Sys2Proof.Machine.execTreeSer s
  | .treeDeser => Sys2Proof.Machine.execTreeDeser s
  | .encSym sym => Sys2Proof.Machine.execEncSym sym s
  | .compress => Sys2Proof.Machine.execCompress s
  | .decStep => Sys2Proof.Machine.execDecStep s
  | .decompress => Sys2Proof.Machine.execDecompress s

end Sys2Proof.Machine
end

