-- ==== Sys2Proof/Machine/Step.lean ====
section
/-! DEFINITION. One step: the host's next act, and the command it issues carried out as one atomic step (R269, R272). -/

namespace Sys2Proof.Machine

/-- The issue of the command in `CMD` and `DATA`, up to its answer (R74, R272). -/
def runCommand (s : State) : Host.Outcome State Fault Refusal :=
  match decode s.cmd s.data with
  | .ok i => exec i s
  | .error e => .next (refuseCommand e s)

/-- One step of the system of R20: idle while the host has nothing planned, a hardware reset, or one command from issue
to answer. -/
def step (s : State) : Host.Outcome State Fault Refusal :=
  match s.host.plan with
  | [] => .next (idle s)
  | .reset src :: rest => .next (hardReset src rest s)
  | .issue cmd data :: rest => runCommand (acceptCommand cmd data rest s)

/-- The state whose very next step runs the command whose bits are `w`: the host issues it next (log entry 8). -/
def State.withFetchWord (s : State) (nbits w : Nat) : State :=
  planCommand (commandWords nbits w).1 (commandWords nbits w).2 s

end Sys2Proof.Machine
end

