-- ==== Sys2Proof/Safety.lean ====
section
/-! DEFINITION. The terms claims are made in: a quiet host, ready units, what a command keeps, the invariant of the
machine (R26, R29, R32, R34 to R36, R82), the statuses each command may return (R237), and runs of several commands. -/

namespace Sys2Proof.Machine

/-! ### The host's draws -/

/-- No draw of the stream is `IOERR` (R106, R123: the premise a claim of completion takes). -/
abbrev Draws.quiet (d : Draws) : Prop := d.after = false ∧ ∀ b ∈ d.coming, b = false

/-- Draw number j of the stream, from 0. -/
def Draws.nth (d : Draws) (j : Nat) : Bool := d.coming.getD j d.after

/-- Draw number k is the first `IOERR` of the stream: k answers before it were OK. -/
abbrev Draws.firstRefusal (d : Draws) (k : Nat) : Prop := (∀ j < k, d.nth j = false) ∧ d.nth k = true

/-- An OPEN reader whose source answers no `IOERR`. -/
abbrev State.readerReady (s : State) : Prop := s.rd.st = .opened ∧ s.host.srcErr.quiet

/-- An OPEN writer with fewer than 8 bits pending (R29) whose sink answers no `IOERR`. -/
abbrev State.writerReady (s : State) : Prop :=
  s.wr.st = .opened ∧ s.wr.pend.length ≤ 7 ∧ s.host.sinkErr.quiet

/-! ### Streams -/

/-- The stream written so far: the bits of `OUT`, then the pending bits (R51, R124). -/
def State.written (s : State) : Bits := bytesBits s.host.out ++ s.wr.pend

/-- How many bits are left in the source at `rd.pos`. -/
def State.bitsLeft (s : State) : Nat := 8 * s.host.src.length - s.rd.pos

/-- The source bits from `rd.pos` on begin with `l`. -/
abbrev State.nextBits (s : State) (l : Bits) : Prop :=
  s.rd.pos + l.length ≤ 8 * s.host.src.length ∧ bitsAt s.host.src s.rd.pos l.length = l

/-- The 8-bit chunk values from bit `p` on, `m` of them (R140). -/
def chunksAt (src : List Byte) (p m : Nat) : List Nat :=
  (List.range m).map fun i => val (bitsAt src (p + 8 * i) 8)

/-- `freq` after counting a list of chunk values (R140). -/
def tally (chunks : List Nat) : Freq :=
  { cnt := (List.range 256).map fun c => chunks.count c, total := chunks.length }

/-! ### Trees and codes -/

/-- The leaves of a tree with their paths, left first (R150). -/
def Tree.leafPaths : Tree → List (Symbol × Bits)
  | .leaf y _ => [(y, [])]
  | .internal _ l r =>
    (l.leafPaths.map fun x => (x.1, false :: x.2)) ++ (r.leafPaths.map fun x => (x.1, true :: x.2))

/-- The bits of each node of a tree in pre-order (R88): joined together they are `ser`. -/
def Tree.nodeBits : Tree → List Bits
  | .leaf y _ => [true :: bitsOf 9 y.val]
  | .internal _ l r => [false] :: (l.nodeBits ++ r.nodeBits)

/-- The bits of the first k nodes of a tree in pre-order: every header TREE.DESER can have read before node k + 1. -/
def Tree.headBits (t : Tree) (k : Nat) : Bits := (t.nodeBits.take k).flatten

/-- The chunk values with a non-zero count, as symbols, ascending (R143). -/
def countedSymbols (cnt : List Nat) : List Symbol := (seedLeaves 0 cnt).map fun t =>
  match t with
  | .leaf y _ => y
  | .internal _ _ _ => sentinel

/-- The leaf symbols TREE.BUILD seeds, in seeding order (R143 to R145). -/
def seededSymbols (cnt : List Nat) : List Symbol :=
  if countedSymbols cnt = [] then [sentinel, 0] else countedSymbols cnt ++ [sentinel]

/-- The codeword a table gives a symbol, empty where it gives none. -/
def CodeTable.word (cw : CodeTable) (y : Nat) : Bits := (cw.lookup y).getD []

/-- The body of a compressed stream (R87): the codeword of each chunk in order, then the sentinel's. -/
def streamBody (cw : CodeTable) (chunks : List Byte) : Bits :=
  (chunks.flatMap fun c => cw.word c.toNat) ++ cw.word sentinel.val

/-- A compressed stream before its padding (R87, R88). -/
def streamBits (magic : Word) (t : Tree) (cw : CodeTable) (chunks : List Byte) : Bits :=
  bitsOf 32 magic.toNat ++ t.ser ++ streamBody cw chunks

/-! ### What a command keeps -/

/-- No command writes the parameters (R6), `SRC` (R25, R58), the command registers (R21) or the host's plan. -/
abbrev fixedKept (s t : State) : Prop :=
  t.params = s.params ∧ t.host.src = s.host.src ∧ t.cmd = s.cmd ∧ t.data = s.data ∧ t.host.plan = s.host.plan

/-- Nothing on the reader's side changed. -/
abbrev readerKept (s t : State) : Prop := t.rd = s.rd ∧ t.host.srcErr = s.host.srcErr

/-- Nothing on the writer's side changed: not the unit, not `OUT`, not a draw. -/
abbrev writerKept (s t : State) : Prop :=
  t.wr = s.wr ∧ t.host.out = s.host.out ∧ t.host.sinkErr = s.host.sinkErr ∧ t.host.landed = s.host.landed

/-- None of the codec stores changed (R31, R32, R34), nor the decoder (R35, R36). -/
abbrev storesKept (s t : State) : Prop := t.freq = s.freq ∧ t.tree = s.tree ∧ t.code = s.code ∧ t.dec = s.dec

/-- The answer is OK with this result word, no event and no symbol (R79, R82). -/
abbrev answeredOk (t : State) (rval : Word) : Prop := t.rstat = 0 ∧ t.rval = rval ∧ t.macroStep = 0

/-! ### The invariant -/

/-- R26: the cursor is inside the source. -/
abbrev readerInv (s : State) : Prop := s.rd.pos ≤ 8 * s.host.src.length

/-- R27, R108: while the reader is OPEN its accumulator holds the bits from `rd.pos` up to the next byte to fetch. -/
abbrev bufferInv (s : State) : Prop :=
  s.rd.st = .opened →
    s.rd.pos + s.rd.buf.cnt = 8 * s.rd.buf.nxt ∧ s.rd.buf.nxt ≤ s.host.src.length ∧ s.rd.buf.cnt ≤ 31 ∧
    s.rd.buf.acc.toNat % 2 ^ s.rd.buf.cnt = val (bitsAt s.host.src s.rd.pos s.rd.buf.cnt)

/-- R29: at most 7 bits are pending; none once the writer is not OPEN (R122, R125). -/
abbrev writerInv (s : State) : Prop := s.wr.pend.length ≤ 7 ∧ (s.wr.st ≠ .opened → s.wr.pend = [])

/-- R31, R142: 256 counters that add up to `freq.total`, which never passes `MAX_CHUNKS`. -/
abbrev freqInv (s : State) : Prop :=
  s.freq.cnt.length = 256 ∧ s.freq.total = s.freq.cnt.sum ∧ s.freq.total ≤ maxChunks s.params

/-- R32, R35: the store holds a tree of at most `NODE_CAP` nodes exactly where the decoder is not IDLE, and
`tree.nnodes` counts its nodes. -/
def treeInv (s : State) : Prop :=
  match s.tree.root with
  | none => s.tree.nnodes = 0 ∧ s.dec.st = .idle ∧ s.dec.path = []
  | some t => s.tree.nnodes = t.nnodes ∧ t.nnodes ≤ s.params.nodeCap ∧ s.dec.st ≠ .idle

/-- R34: the code table is the one CODE.DERIVE makes of the loaded tree, or empty. -/
def codeInv (s : State) : Prop :=
  if s.code.valid then s.tree.root.map Tree.codes = some s.code.cw else s.code.cw = CodeTable.empty

/-- R36: the decoder's path leads to a node of the loaded tree: an internal node where it is READY, but for a tree
whose root is a leaf; the sentinel leaf where it is DONE (R35). -/
def decoderInv (s : State) : Prop :=
  match s.tree.root with
  | none => s.dec.path = []
  | some t =>
    match t.subtree s.dec.path with
    | none => False
    | some (.internal _ _ _) => s.dec.st ≠ .done
    | some (.leaf y _) => (s.dec.st = .ready → s.dec.path = []) ∧ (s.dec.st = .done → y = sentinel)

/-- R79, R80, R82, R83: reserved RSTAT bits are 0, STATUS is at most 6, EVENT is never 3, an error answer has RVAL,
EVENT and RSYM 0, and RSYM is a symbol; `step` is 0 between commands (R22). -/
abbrev answerInv (s : State) : Prop :=
  s.rstat = rstatWord (rstatStatus s.rstat) (rstatDetail s.rstat) (rstatEvent s.rstat) (rstatSym s.rstat) ∧
  rstatStatus s.rstat ≤ 6 ∧ rstatEvent s.rstat ≤ 2 ∧ rstatSym s.rstat ≤ 256 ∧
  (rstatStatus s.rstat ≠ 0 → s.rval = 0 ∧ rstatEvent s.rstat = 0 ∧ rstatSym s.rstat = 0) ∧
  s.macroStep = 0

/-- R6: the parameters are legal: a counter has a bit, and the tree store holds every tree TREE.BUILD makes. -/
abbrev paramsInv (s : State) : Prop := 1 ≤ s.params.cntW ∧ 513 ≤ s.params.nodeCap

/-- The invariant of the machine at every command boundary. -/
def StateInv (s : State) : Prop :=
  paramsInv s ∧ readerInv s ∧ bufferInv s ∧ writerInv s ∧ freqInv s ∧ treeInv s ∧ codeInv s ∧ decoderInv s ∧
  answerInv s

end Sys2Proof.Machine

namespace Sys2Proof

/-! ### Statuses -/

/-- The statuses of R237's table, OK aside: the error answers each command may give. Decode's two apply before any
command is reached. -/
def Instr.mayAnswer : Instr → List Machine.Err
  | .rdRead _ => [.endOfStream, .invalidArgument, .sourceIO, .stickyRd, .unitClosed]
  | .rdReset => [.sourceIO, .stickyRd, .unitClosed]
  | .rdClose => [.sourceIO, .stickyRd, .unitClosed]
  | .wrWrite _ _ => [.invalidArgument, .sinkIO, .stickyWr, .unitClosed]
  | .wrClose => [.sinkIO, .stickyWr, .unitClosed]
  | .freqCount => [.sourceIO, .stickyRd, .unitClosed, .capacity]
  | .treeBuild => []
  | .codeDerive => [.noTree]
  | .treeSer => [.sinkIO, .stickyWr, .unitClosed, .noTree]
  | .treeDeser => [.endOfStream, .symbolRange, .nodeCap, .sourceIO, .stickyRd, .unitClosed]
  | .encSym _ => [.sinkIO, .stickyWr, .unitClosed, .symRange, .noCodeTable, .noCodeword]
  | .compress => [.sourceIO, .sinkIO, .stickyRd, .stickyWr, .unitClosed, .noCodeword, .capacity]
  | .decStep =>
    [.endOfStream, .leafRoot, .sourceIO, .sinkIO, .stickyRd, .stickyWr, .unitClosed, .noTree, .decoderNotReady]
  | .decompress =>
    [.endOfStream, .noMagic, .badMagic, .symbolRange, .nodeCap, .leafRoot, .sourceIO, .sinkIO, .stickyRd, .stickyWr,
      .unitClosed]

/-- R78: a command that uses RD and checks it first. -/
def Instr.usesReader : Instr → Bool
  | .rdRead _ | .rdReset | .freqCount | .treeDeser | .decStep | .compress | .decompress => true
  | .rdClose | .wrWrite _ _ | .wrClose | .treeBuild | .codeDerive | .treeSer | .encSym _ => false

/-- R78: a command that uses WR and checks it first. -/
def Instr.usesWriter : Instr → Bool
  | .wrWrite _ _ | .treeSer | .encSym _ | .compress | .decompress => true
  | .rdRead _ | .rdReset | .rdClose | .wrClose | .freqCount | .treeBuild | .codeDerive | .treeDeser | .decStep => false

end Sys2Proof

namespace Sys2Proof.Machine

/-! ### Runs -/

/-- Several commands, one after the other, stopping where one gives no next state. -/
def execAll : List Instr → State → Option State
  | [], s => some s
  | i :: rest, s =>
    match exec i s with
    | .next t => execAll rest t
    | .fault _ => none
    | .refused _ => none

/-- The result words of a list of reads, in order; `none` where one answers an error. -/
def readAll : List Nat → State → Option (List Word)
  | [], _ => some []
  | n :: rest, s =>
    match exec (.rdRead n) s with
    | .next t => if t.rstat = 0 then (readAll rest t).map (t.rval :: ·) else none
    | .fault _ => none
    | .refused _ => none

end Sys2Proof.Machine
end

