-- ==== Sys2Proof/Certificates/Slice0/Obligations.lean ====
section
/-! DEFINITION. The statements for the provers, in the order of the spec's files. Each docstring says which rules of
spec/ it formalises. Where a statement rests on a convention of the model, the docstring names its log entry. -/

open Sys2Proof Sys2Proof.Machine

/-! ### Encoding (30_encoding.md) -/

/-- R71, R73, R74, R86: the decoder reads back every command the assembler can write, every operand at every value. -/
def Obligations.DecodeEncodeAgree : Prop :=
  ∀ i : Instr, i.WellFormed = true → decode (encode i).1 (encode i).2 = .ok i

/-- R71, R74, R86: every command word the decoder accepts is the assembled word of the command it reads, so no two
words mean one command; WR.WRITE takes its value from `DATA` (R72). -/
def Obligations.AcceptedWordsAreAssembled : Prop :=
  ∀ (cmd data : Word) (i : Instr), decode cmd data = .ok i →
    i.WellFormed = true ∧ (encode i).1 = cmd ∧ ∀ n value, i = .wrWrite n value → value = data

/-- The opcodes of R73. -/
def assignedOpcodes : List Nat :=
  [0x01, 0x02, 0x03, 0x11, 0x12, 0x21, 0x22, 0x23, 0x31, 0x32, 0x41, 0x42, 0x51, 0x52]

/-- R74: a bit of `CMD` is set that the command does not use. -/
abbrev reservedBitSet (cmd : Word) : Prop :=
  reservedLow cmd ≠ 0 ∨ reservedHigh cmd ≠ 0 ∨ (opField cmd ≠ 0x01 ∧ opField cmd ≠ 0x11 ∧ nField cmd ≠ 0) ∨
    (opField cmd ≠ 0x41 ∧ symField cmd ≠ 0)

/-- R74: the decoder is total. An unassigned opcode is refused with RESERVED_OPCODE; then a set reserved bit, N or SYM
field with RESERVED_BITS; a refused command changes only RSTAT and RVAL (and leaves `CMD` and `DATA` as the host wrote
them); every other command word runs a command. `step` is 0 whenever no command is executing (R22). -/
def Obligations.ReservedEncodingsRefused : Prop :=
  ∀ (s : State) (cmd data : Word) (rest : List HostAct),
    s.host.plan = .issue cmd data :: rest → s.macroStep = 0 →
    (opField cmd ∉ assignedOpcodes →
      step s = .next { acceptCommand cmd data rest s with rstat := 0x15, rval := 0 }) ∧
    (opField cmd ∈ assignedOpcodes → reservedBitSet cmd →
      step s = .next { acceptCommand cmd data rest s with rstat := 0x25, rval := 0 }) ∧
    (opField cmd ∈ assignedOpcodes → ¬ reservedBitSet cmd →
      ∃ i, decode cmd data = .ok i ∧ step s = exec i (acceptCommand cmd data rest s))

/-- R71, R73: command words written out from the table decode to their commands (95_test_vectors.md P1, P2, P3). -/
def Obligations.TableWordsDecode : Prop :=
  decode 0x00002001 0 = .ok (.rdRead 32) ∧ decode 0x00000002 7 = .ok .rdReset ∧
  decode 0x00000311 0x5 = .ok (.wrWrite 3 0x5) ∧ decode 0x00000021 0 = .ok .freqCount ∧
  decode 0x00000032 0 = .ok .treeDeser ∧ decode 0x01000041 0 = .ok (.encSym 256) ∧
  decode 0x00000042 0 = .ok .compress ∧ decode 0x00000051 0 = .ok .decStep ∧
  decode 0x00000004 0 = .error .reservedOpcode ∧ decode 0x00010801 0 = .error .reservedBits

/-! ### Steps, the host and reset (10_state.md, 70_reset_and_hazards.md) -/

/-- R269, R272: the step of a command the host issues is that command's own effect on the state whose `CMD` and `DATA`
the host has just written. -/
def Obligations.StepRunsDecodedCommand : Prop :=
  ∀ (s : State) (cmd data : Word) (rest : List HostAct) (i : Instr),
    s.host.plan = .issue cmd data :: rest → decode cmd data = .ok i →
    step s = exec i { s with cmd := cmd, data := data, host := { s.host with plan := rest } }

/-- R40, R248, R260, R261: with nothing issued the block keeps all state; a hardware reset gives every field its reset
value, discards the RD buffer, binds the new source and a fresh sink, and draws nothing, since it makes no port request;
and the model's reset state has those values. That a reset leaves the parameters, the draws and the host's further plan
alone is the model's (log entries 2, 6, 8). -/
def Obligations.IdleAndHardReset : Prop :=
  (∀ s : State, s.host.plan = [] → step s = .next s) ∧
  (∀ (s : State) (src : List Byte) (rest : List HostAct), s.host.plan = .reset src :: rest →
    ∃ t, step s = .next t ∧
      t.rstat = 0 ∧ t.rval = 0 ∧ t.macroStep = 0 ∧
      t.rd = { st := .opened, pos := 0, buf := { acc := 0, cnt := 0, nxt := 0 } } ∧
      t.wr = { st := .opened, pend := [] } ∧ t.freq = { cnt := List.replicate 256 0, total := 0 } ∧
      t.tree = { root := none, nnodes := 0 } ∧ t.code = { valid := false, cw := List.replicate 257 none } ∧
      t.dec = { st := .idle, path := [] } ∧
      t.host = { s.host with src := src, out := [], plan := rest } ∧ t.params = s.params) ∧
  (State.reset.rstat = 0 ∧ State.reset.rval = 0 ∧ State.reset.macroStep = 0 ∧
    State.reset.rd = { st := .opened, pos := 0, buf := { acc := 0, cnt := 0, nxt := 0 } } ∧
    State.reset.wr = { st := .opened, pend := [] } ∧
    State.reset.freq = { cnt := List.replicate 256 0, total := 0 } ∧
    State.reset.tree = { root := none, nnodes := 0 } ∧
    State.reset.code = { valid := false, cw := List.replicate 257 none } ∧
    State.reset.dec = { st := .idle, path := [] } ∧ State.reset.host.out = [])

/-! ### Checks before a command runs (60_exceptions.md) -/

/-- R78, R238, R239: PreCheck. For every command but the two closes: a CLOSED unit first (RD or WR, one answer), then a
FAILED RD, then a FAILED WR; each refusal is an error answer that changes nothing else. -/
def Obligations.PreCheckOrder : Prop :=
  ∀ (i : Instr) (s : State),
    ((i.usesReader = true ∧ s.rd.st = .closed) ∨ (i.usesWriter = true ∧ s.wr.st = .closed) →
      exec i s = .next (s.answerError .unitClosed)) ∧
    (i.usesReader = true → s.rd.st = .failed → ¬ (i.usesWriter = true ∧ s.wr.st = .closed) →
      exec i s = .next (s.answerError .stickyRd)) ∧
    (i.usesWriter = true → s.wr.st = .failed → (i.usesReader = true → s.rd.st = .opened) →
      exec i s = .next (s.answerError .stickyWr))

/-- R241: a CLOSED unit is never changed by a command, a FAILED unit never becomes OPEN by one, and a step that reopens
a unit is a hardware reset. -/
def Obligations.OnlyResetReopens : Prop :=
  (∀ (i : Instr) (s t : State), exec i s = .next t →
    (s.rd.st = .closed → t.rd = s.rd) ∧ (s.rd.st = .failed → t.rd.st ≠ .opened) ∧
    (s.wr.st = .closed → t.wr = s.wr) ∧ (s.wr.st = .failed → t.wr.st ≠ .opened)) ∧
  (∀ s t : State, step s = .next t →
    ((s.rd.st ≠ .opened ∧ t.rd.st = .opened) ∨ (s.wr.st ≠ .opened ∧ t.wr.st = .opened)) →
    ∃ src rest, s.host.plan = .reset src :: rest)

/-- R231: INVALID_ARGUMENT is raised by RD.READ and WR.WRITE exactly for a width outside 1..32; it changes no state; no
other command raises it. -/
def Obligations.IllegalWidthsRefused : Prop :=
  (∀ (n : Nat) (s : State), n = 0 ∨ 33 ≤ n → s.rd.st = .opened →
    exec (.rdRead n) s = .next (s.answerError .invalidArgument)) ∧
  (∀ (n : Nat) (value : Word) (s : State), n = 0 ∨ 33 ≤ n → s.wr.st = .opened →
    exec (.wrWrite n value) s = .next (s.answerError .invalidArgument)) ∧
  (Err.invalidArgument.rstat = 2) ∧
  (∀ (i : Instr) (s t : State), exec i s = .next t → t.rstat = 2 →
    ∃ n, (n = 0 ∨ 33 ≤ n) ∧ (i = .rdRead n ∨ ∃ value, i = .wrWrite n value))

/-- R237: the statuses each command can return, and no others; an error answer has RVAL 0 (R82). -/
def Obligations.StatusesPerCommand : Prop :=
  ∀ (i : Instr) (s t : State), exec i s = .next t →
    rstatStatus t.rstat = 0 ∨ ∃ e ∈ i.mayAnswer, t.rstat = e.rstat ∧ t.rval = 0

/-- R106, R122, R125, R240: a command that answers SOURCE_IO leaves the reader FAILED, and one that answers SINK_IO
leaves the writer with nothing pending and FAILED, or CLOSED where the fault came from a close. RD.CLOSE itself leaves
the reader CLOSED. -/
def Obligations.FaultsFailTheirUnit : Prop :=
  ∀ (i : Instr) (s t : State), exec i s = .next t →
    (t.rstat = Err.sourceIO.rstat → t.rd.st = if i = .rdClose then .closed else .failed) ∧
    (t.rstat = Err.sinkIO.rstat → t.wr.pend = [] ∧
      (t.wr.st = .failed ∨ (t.wr.st = .closed ∧ (i = .wrClose ∨ i = .compress ∨ i = .decompress))))

/-- R6, R21, R25, R50, R58: no command writes the parameters, `CMD`, `DATA`, `SRC` or the host's plan, and what the
sink has accepted is never taken back. -/
def Obligations.CommandsKeepHostSide : Prop :=
  ∀ (i : Instr) (s t : State), exec i s = .next t → fixedKept s t ∧ s.host.out <+: t.host.out

/-! ### BitReader (40_bitreader.md) -/

/-- R101, R102, R82: on an OPEN reader whose source answers this read, RD.READ of a legal width that is left returns
the next n bits, most significant first, advances the cursor by n and changes nothing outside the reader. -/
def Obligations.ReadReturnsNextBits : Prop :=
  ∀ (n : Nat) (s : State), s.rd.st = .opened → s.host.srcErr.draw.1 = false → 1 ≤ n → n ≤ 32 →
    s.rd.pos + n ≤ 8 * s.host.src.length →
    ∃ t, exec (.rdRead n) s = .next t ∧ answeredOk t (resultWord (val (bitsAt s.host.src s.rd.pos n))) ∧
      t.rd.pos = s.rd.pos + n ∧ t.rd.st = .opened ∧ t.host.srcErr = s.host.srcErr.draw.2 ∧
      writerKept s t ∧ storesKept s t ∧ fixedKept s t

/-- The integer of R53: bytes q to q+k-1, the first the most significant. -/
def bytesValue (src : List Byte) (q k : Nat) : Nat := ((src.drop q).take k).foldl (fun a b => 256 * a + b.toNat) 0

/-- R53: the n-bit value at cursor p is cut out of the k bytes that hold it; k is at most 5, and a 32-bit read touches
5 bytes where p is inside a byte and 4 where it is not. -/
def Obligations.ReadAcrossByteBoundaries : Prop :=
  ∀ (n : Nat) (s : State), s.rd.st = .opened → s.host.srcErr.draw.1 = false → 1 ≤ n → n ≤ 32 →
    s.rd.pos + n ≤ 8 * s.host.src.length →
    let q := s.rd.pos / 8
    let r := s.rd.pos % 8
    let k := (r + n + 7) / 8
    (1 ≤ k ∧ k ≤ 5 ∧ (n = 32 → k = if r = 0 then 4 else 5)) ∧
    ∃ t, exec (.rdRead n) s = .next t ∧
      t.rval.toNat = bytesValue s.host.src q k / 2 ^ (8 * k - r - n) % 2 ^ n

/-- R57: an RD.READ of a legal width returns all n bits and advances by n, or returns END_OF_STREAM (on an OPEN reader
exactly where fewer than n bits are left and the source answers) and leaves the cursor where it was; it never returns a
partial value. -/
def Obligations.ReadIsAllOrNothing : Prop :=
  (∀ (n : Nat) (s t : State), exec (.rdRead n) s = .next t →
    (t.rstat = 0 → t.rd.pos = s.rd.pos + n ∧ s.rd.pos + n ≤ 8 * s.host.src.length ∧
      t.rval.toNat = val (bitsAt s.host.src s.rd.pos n)) ∧
    (t.rstat ≠ 0 → t.rd.pos = s.rd.pos ∧ t.rval = 0) ∧
    (t.rstat = 1 → s.rd.st = .opened ∧ 1 ≤ n ∧ n ≤ 32 ∧ s.host.srcErr.draw.1 = false ∧
      8 * s.host.src.length < s.rd.pos + n)) ∧
  (∀ (n : Nat) (s : State), s.rd.st = .opened → s.host.srcErr.draw.1 = false → 1 ≤ n → n ≤ 32 →
    8 * s.host.src.length < s.rd.pos + n →
    ∃ t, exec (.rdRead n) s = .next t ∧ t.rstat = 1 ∧ t.rval = 0 ∧ t.rd.pos = s.rd.pos ∧ t.rd.st = .opened)

/-- R107, CA §8 "Reader boundary": a 32-bit read of exactly the last 32 bits returns them, and one further single-bit
read returns END_OF_STREAM. -/
def Obligations.ReaderBoundary : Prop :=
  ∀ (s : State), s.readerReady → 4 ≤ s.host.src.length → s.rd.pos = 8 * s.host.src.length - 32 →
    ∃ t u, exec (.rdRead 32) s = .next t ∧ t.rstat = 0 ∧ t.rd.pos = 8 * s.host.src.length ∧
      t.rval.toNat = val (bitsAt s.host.src (8 * s.host.src.length - 32) 32) ∧
      exec (.rdRead 1) t = .next u ∧ u.rstat = Err.endOfStream.rstat ∧ u.rd.pos = 8 * s.host.src.length

/-- R104: RD.RESET on an OPEN reader returns the cursor to 0 and discards the buffer where neither of its two source
draws is `IOERR`; else it answers SOURCE_IO with the reader FAILED and the cursor where it was. It touches nothing
else. How many draws it takes is read from R104's pseudocode (log entry 13). -/
def Obligations.RewindReturnsToStart : Prop :=
  ∀ s : State, s.rd.st = .opened →
    (s.host.srcErr.draw.1 = false → s.host.srcErr.draw.2.draw.1 = false →
      ∃ t, exec .rdReset s = .next t ∧ answeredOk t 0 ∧ t.rd = { st := .opened, pos := 0, buf := ReadBuffer.empty } ∧
        writerKept s t ∧ storesKept s t ∧ fixedKept s t) ∧
    (s.host.srcErr.draw.1 = true ∨ s.host.srcErr.draw.2.draw.1 = true →
      ∃ t, exec .rdReset s = .next t ∧ t.rstat = Err.sourceIO.rstat ∧ t.rval = 0 ∧
        t.rd = { s.rd with st := .failed } ∧ writerKept s t ∧ storesKept s t ∧ fixedKept s t)

/-- R105: RD.CLOSE. A second close is refused; a FAILED reader is released and still reports the failure; an OPEN one is
released and CLOSED whatever the release answers. -/
def Obligations.CloseReleasesSource : Prop :=
  ∀ s : State,
    (s.rd.st = .closed → exec .rdClose s = .next (s.answerError .unitClosed)) ∧
    (s.rd.st = .failed → ∃ t, exec .rdClose s = .next t ∧ t.rstat = Err.stickyRd.rstat ∧ t.rval = 0 ∧
      t.rd = { s.rd with st := .closed } ∧ writerKept s t ∧ storesKept s t) ∧
    (s.rd.st = .opened → s.host.srcErr.draw.1 = false → ∃ t, exec .rdClose s = .next t ∧ answeredOk t 0 ∧
      t.rd = { st := .closed, pos := s.rd.pos, buf := ReadBuffer.empty } ∧ writerKept s t ∧ storesKept s t) ∧
    (s.rd.st = .opened → s.host.srcErr.draw.1 = true → ∃ t, exec .rdClose s = .next t ∧
      t.rstat = Err.sourceIO.rstat ∧ t.rval = 0 ∧
      t.rd = { st := .closed, pos := s.rd.pos, buf := ReadBuffer.empty } ∧ writerKept s t ∧ storesKept s t)

/-- Frame of RD.READ, RD.RESET and RD.CLOSE (R100, R104): nothing outside the reader and its source draws, however they
answer; RD.CLOSE keeps the cursor (R105). -/
def Obligations.ReaderCommandsFrame : Prop :=
  ∀ (i : Instr) (s t : State), (∃ n, i = .rdRead n) ∨ i = .rdReset ∨ i = .rdClose → exec i s = .next t →
    writerKept s t ∧ storesKept s t ∧ fixedKept s t ∧ (i = .rdClose → t.rd.pos = s.rd.pos)

/-- R108, R27, R273, on the model's buffer (log entry 5): from a buffer in step with the cursor, RD.READ answers what the reference datapath's accumulator
holds, leaves the buffer in step, and fetches at most 5 bytes. -/
def Obligations.ReferenceDatapathAgrees : Prop :=
  ∀ (n : Nat) (s t : State), 1 ≤ n → n ≤ 32 → bufferInv s → exec (.rdRead n) s = .next t →
    bufferInv t ∧ s.rd.buf.nxt ≤ t.rd.buf.nxt ∧ t.rd.buf.nxt ≤ s.rd.buf.nxt + 5 ∧
    (t.rstat = 0 → t.rval.toNat = (s.rd.buf.refill s.host.src n n).value n)

/-! ### BitWriter (41_bitwriter.md) -/

/-- R121, R124: on a ready writer WR.WRITE of a legal width appends the low n bits of its value, most significant first,
to the written stream, and keeps fewer than 8 bits pending. -/
def Obligations.WriteAppendsLowBits : Prop :=
  ∀ (n : Nat) (value : Word) (s : State), s.writerReady → 1 ≤ n → n ≤ 32 →
    ∃ t, exec (.wrWrite n value) s = .next t ∧ answeredOk t 0 ∧ t.written = s.written ++ bitsOf n value.toNat ∧
      t.wr.st = .opened ∧ t.wr.pend.length ≤ 7 ∧ s.host.out <+: t.host.out

/-- R122, R123, R124: a WR.WRITE is refused by the sink exactly where the first refusing draw falls on one of the bytes it
completes. The writer is then FAILED with nothing pending. `OUT` keeps what it held and gains every byte accepted before
the refusal, one for each draw before it; the refused byte is in it too exactly where its draw says that it landed. -/
def Obligations.RefusedByteFailsWriter : Prop :=
  ∀ (n : Nat) (value : Word) (s : State), s.wr.st = .opened → s.wr.pend.length ≤ 7 → 1 ≤ n → n ≤ 32 →
    let bits := s.wr.pend ++ bitsOf n value.toNat
    (∀ k : Nat, s.host.sinkErr.firstRefusal k → 8 * (k + 1) ≤ bits.length →
      ∃ t, exec (.wrWrite n value) s = .next t ∧ t.rstat = Err.sinkIO.rstat ∧ t.rval = 0 ∧
        t.wr = { st := .failed, pend := [] } ∧ s.host.out <+: t.host.out ∧
        bytesBits t.host.out =
          bytesBits s.host.out ++ bits.take (8 * (k + if s.host.landed.draw.1 then 1 else 0))) ∧
    (∀ t : State, exec (.wrWrite n value) s = .next t → t.rstat = Err.sinkIO.rstat →
      ∃ k : Nat, s.host.sinkErr.firstRefusal k ∧ 8 * (k + 1) ≤ bits.length)

/-- R125: every way WR.CLOSE ends. On a ready writer it pads a partial byte with zero bits, delivers it and closes the
unit, and with nothing pending it sends no byte. A second close is refused; a FAILED writer is released, its pending
bits discarded, and still reports the failure; where the padded byte or the release is refused the unit is CLOSED
anyway. -/
def Obligations.CloseFlushesWriter : Prop :=
  (∀ s : State, s.writerReady →
    ∃ t, exec .wrClose s = .next t ∧ answeredOk t 0 ∧ t.wr = { st := .closed, pend := [] } ∧
      bytesBits t.host.out = s.written ++ List.replicate ((8 - s.wr.pend.length) % 8) false ∧
      (s.wr.pend = [] → t.host.out = s.host.out)) ∧
  ∀ s : State,
    (s.wr.st = .closed → exec .wrClose s = .next (s.answerError .unitClosed)) ∧
    (s.wr.st = .failed → ∃ t, exec .wrClose s = .next t ∧ t.rstat = Err.stickyWr.rstat ∧ t.rval = 0 ∧
      t.wr = { st := .closed, pend := [] } ∧ t.host.out = s.host.out) ∧
    (s.wr.st = .opened → s.host.sinkErr.draw.1 = true → ∃ t, exec .wrClose s = .next t ∧
      t.rstat = Err.sinkIO.rstat ∧ t.rval = 0 ∧ t.wr = { st := .closed, pend := [] } ∧
      (t.host.out = s.host.out ∨ s.wr.pend ≠ [] ∧ t.host.out = s.host.out ++ [lastByte s.wr.pend])) ∧
    (s.wr.st = .opened → s.wr.pend ≠ [] → s.host.sinkErr.draw.1 = false → s.host.sinkErr.draw.2.draw.1 = true →
      ∃ t, exec .wrClose s = .next t ∧ t.rstat = Err.sinkIO.rstat ∧ t.rval = 0 ∧
        t.wr = { st := .closed, pend := [] } ∧ t.host.out = s.host.out ++ [lastByte s.wr.pend])

/-- Frame of WR.WRITE, WR.CLOSE, TREE.SER and ENC.SYM (R58, R170, R190): nothing outside the writer, `OUT` and the sink
draws, and `OUT` only grows. -/
def Obligations.WriterCommandsFrame : Prop :=
  ∀ (i : Instr) (s t : State),
    (∃ n value, i = .wrWrite n value) ∨ i = .wrClose ∨ i = .treeSer ∨ (∃ y, i = .encSym y) → exec i s = .next t →
    readerKept s t ∧ storesKept s t ∧ fixedKept s t ∧ s.host.out <+: t.host.out

/-- The total width of a list of writes. -/
def totalWidth (ws : List (Nat × Word)) : Nat := (ws.map Prod.fst).sum

/-- The commands of a list of writes. -/
def writesOf (ws : List (Nat × Word)) : List Instr := ws.map fun w => .wrWrite w.1 w.2

/-- R126: after writes totalling T bits, `OUT` has floor(T/8) bytes; after the close, ceil(T/8), and its bits are the
written bits padded with (-T) mod 8 zeros. -/
def Obligations.OutputLength : Prop :=
  ∀ (ws : List (Nat × Word)) (s : State), (∀ w ∈ ws, 1 ≤ w.1 ∧ w.1 ≤ 32) → s.writerReady → s.written = [] →
    ∃ u t, execAll (writesOf ws) s = some u ∧ u.host.out.length = totalWidth ws / 8 ∧
      exec .wrClose u = .next t ∧ t.rstat = 0 ∧ t.host.out.length = (totalWidth ws + 7) / 8 ∧
      bytesBits t.host.out = (ws.flatMap fun w => bitsOf w.1 w.2.toNat) ++
        List.replicate ((8 - totalWidth ws % 8) % 8) false

/-- R127: a reader given the bytes of a closed writer reads back every value written, modulo 2 to its width. -/
def Obligations.ReaderWriterInverse : Prop :=
  ∀ (ws : List (Nat × Word)) (s : State), (∀ w ∈ ws, 1 ≤ w.1 ∧ w.1 ≤ 32) → s.writerReady → s.written = [] →
    ∃ t, execAll (writesOf ws ++ [.wrClose]) s = some t ∧
      ∀ r : State, r.readerReady → r.rd.pos = 0 → r.host.src = t.host.out →
        readAll (ws.map Prod.fst) r = some (ws.map fun w => resultWord (w.2.toNat % 2 ^ w.1))

/-! ### Counting, building, deriving (42_tree_build.md) -/

/-- R140, R142: FREQ.COUNT tallies the whole chunks from the cursor to the end. Where there are at most `MAX_CHUNKS` it
answers their number; where there are more it reads one more, does not count it, and answers CAPACITY. -/
def Obligations.FreqCountTallies : Prop :=
  ∀ s : State, s.readerReady → s.rd.pos ≤ 8 * s.host.src.length →
    (s.bitsLeft / 8 ≤ maxChunks s.params →
      ∃ t, exec .freqCount s = .next t ∧ answeredOk t (resultWord (s.bitsLeft / 8)) ∧
        t.freq = tally (chunksAt s.host.src s.rd.pos (s.bitsLeft / 8)) ∧
        t.rd.pos = s.rd.pos + 8 * (s.bitsLeft / 8) ∧ t.rd.st = .opened) ∧
    (maxChunks s.params < s.bitsLeft / 8 →
      ∃ t, exec .freqCount s = .next t ∧ t.rstat = Err.capacity.rstat ∧ t.rval = 0 ∧
        t.freq = tally (chunksAt s.host.src s.rd.pos (maxChunks s.params)) ∧
        t.rd.pos = s.rd.pos + 8 * (maxChunks s.params + 1) ∧ t.rd.st = .opened)

/-- R143, R147, R144: TREE.BUILD always answers OK with a tree in the store, its node count beside it, the code table
invalidated and the decoder READY at the root; nothing else changes. With every count 0 the tree is the empty-input
tree, under every `TIE_BREAK`. -/
def Obligations.TreeBuildLoadsTree : Prop :=
  ∀ s : State,
    ∃ t root, exec .treeBuild s = .next t ∧ answeredOk t 0 ∧ t.tree = { root := some root, nnodes := root.nnodes } ∧
      t.code = { valid := false, cw := List.replicate 257 none } ∧ t.dec = { st := .ready, path := [] } ∧
      t.freq = s.freq ∧ readerKept s t ∧ writerKept s t ∧ fixedKept s t ∧
      ((∀ c ∈ s.freq.cnt, c = 0) → root = .internal 1 (.leaf 0 0) (.leaf sentinel 1))

/-- R149, R148: every tree TREE.BUILD makes is full, has one leaf per seeded symbol, each once and the sentinel among
them, 2L-1 nodes, a depth from 1 to L-1, weights that add up, and root weight `freq.total + 1`, which fits `CNT_W`. -/
def Obligations.BuiltTreeProperties : Prop :=
  ∀ (s t : State) (root : Tree), freqInv s → paramsInv s → exec .treeBuild s = .next t → t.tree.root = some root →
    let d := (s.freq.cnt.filter fun c => 0 < c).length
    root.leaves = root.internals + 1 ∧ root.leaves = (if d = 0 then 2 else d + 1) ∧ root.leaves ≤ 257 ∧
    root.symbols.Nodup ∧ sentinel ∈ root.symbols ∧ root.symbols.Perm (seededSymbols s.freq.cnt) ∧
    t.tree.nnodes = 2 * root.leaves - 1 ∧ t.tree.nnodes ≤ 513 ∧ 513 ≤ s.params.nodeCap ∧
    1 ≤ root.depth ∧ root.depth ≤ root.leaves - 1 ∧ root.sumsHold = true ∧
    root.weight = s.freq.total + 1 ∧ root.weight ≤ 2 ^ s.params.cntW - 1

/-- R146: RemoveMin takes one node of Q, of least weight under every policy, and under `TB_SEQ` the one with the least
pair (weight, insertion sequence); the rest stays in order. Sequence numbers are distinct, as Insert gives them. -/
def Obligations.RemoveMinTakesLeast : Prop :=
  ∀ (tb : TieBreak) (q : Queue), (q.items.map QNode.seq).Nodup → q.items ≠ [] →
    ∃ e ∈ q.items, q.removeMin tb =
        some (e.tree, { items := q.items.erase e, next := q.next, hist := q.hist ++ [.removeMin] }) ∧
      (∀ f ∈ q.items, e.tree.weight ≤ f.tree.weight) ∧
      (tb = .tbSeq → ∀ f ∈ q.items, e.tree.weight < f.tree.weight ∨ (e.tree.weight = f.tree.weight ∧ e.seq ≤ f.seq))

/-- R150, R151, R152: CODE.DERIVE gives each symbol the path of its last leaf in left-first order (0 is left, 1 is
right), none where it has no leaf, and marks the table valid; nothing else changes. -/
def Obligations.CodeDeriveRecordsPaths : Prop :=
  ∀ (s : State) (u : Tree), s.tree.root = some u →
    ∃ t, exec .codeDerive s = .next t ∧ answeredOk t 0 ∧ t.code.valid = true ∧ t.code.cw.length = 257 ∧
      (∀ y : Symbol, t.code.cw.lookup y.val = (u.leafPaths.reverse.find? fun x => x.1 == y).map Prod.snd) ∧
      t.freq = s.freq ∧ t.tree = s.tree ∧ t.dec = s.dec ∧ readerKept s t ∧ writerKept s t ∧ fixedKept s t

/-- R153: for a tree with distinct leaf symbols no codeword is a prefix of another, and each is the root-to-leaf path of
its symbol. -/
def Obligations.PrefixFreeCode : Prop :=
  ∀ (s t : State) (u : Tree), s.tree.root = some u → u.symbols.Nodup → exec .codeDerive s = .next t →
    (∀ (y z : Nat) (p q : Bits), t.code.cw.lookup y = some p → t.code.cw.lookup z = some q → p <+: q → y = z) ∧
    (∀ (y : Symbol) (p : Bits), t.code.cw.lookup y.val = some p ↔ ∃ w, u.subtree p = some (.leaf y w))

/-- R154, R156: a codeword has at most the depth of the tree, which is at most its internal nodes, (m-1)/2 of m; so at
most `CODE_MAX` bits within `NODE_CAP`, 256 at the default. For a tree TREE.BUILD makes, every codeword has 1 to 256 bits, the sentinel's
included. -/
def Obligations.CodewordLengths : Prop :=
  codeMax Config.defaults = 256 ∧
  (∀ (s t : State) (u : Tree), s.tree.root = some u → exec .codeDerive s = .next t →
    u.internals = (u.nnodes - 1) / 2 ∧ u.depth ≤ u.internals ∧
    ∀ (y : Nat) (p : Bits), t.code.cw.lookup y = some p →
      p.length ≤ u.depth ∧ (u.nnodes ≤ s.params.nodeCap → p.length ≤ codeMax s.params)) ∧
  (∀ s : State, freqInv s →
    ∃ t v, exec .treeBuild s = .next t ∧ exec .codeDerive t = .next v ∧
      (∃ p, v.code.cw.lookup sentinel.val = some p) ∧
      ∀ (y : Nat) (p : Bits), v.code.cw.lookup y = some p → p ≠ [] ∧ p.length ≤ 256)

/-- 2 to the minus length of a codeword, 0 where there is none. -/
def kraftTerm (w : Option Bits) : ℚ :=
  match w with
  | none => 0
  | some p => (1 / 2) ^ p.length

/-- R155: the Kraft equality for a full tree with distinct leaf symbols, and a bit sequence at least as long as the
depth always reaches a leaf. -/
def Obligations.KraftEquality : Prop :=
  ∀ (s t : State) (u : Tree), s.tree.root = some u → u.symbols.Nodup → exec .codeDerive s = .next t →
    (t.code.cw.map kraftTerm).sum = 1 ∧
    ∀ l : Bits, u.depth ≤ l.length → ∃ p y, p <+: l ∧ t.code.cw.lookup y = some p

/-! ### Tree codec (43_tree_codec.md) -/

/-- R88, R170, R171, R82: TREE.SER on a ready writer appends the pre-order bits of the loaded tree and answers their
number, where it fits 32 bits; past that no rule states the answer and it is a free value (log entry 20). -/
def Obligations.SerWritesPreorder : Prop :=
  ∀ (s : State) (u : Tree), s.writerReady → s.tree.root = some u →
    ∃ t, exec .treeSer s = .next t ∧ answeredOk t (countWord 0x31 (10 * u.leaves + u.internals)) ∧
      t.written = s.written ++ u.ser ∧ t.wr.st = .opened ∧ t.wr.pend.length ≤ 7

/-- R171: a tree serializes to 10·L + I bits, 11·L - 1 since it is full; a tree TREE.BUILD makes has L ≤ 257, so at
most 2826 bits. -/
def Obligations.SerializedLength : Prop :=
  (∀ u : Tree, u.ser.length = 10 * u.leaves + u.internals ∧ u.ser.length = 11 * u.leaves - 1) ∧
  (∀ (s t : State) (u : Tree), freqInv s → exec .treeBuild s = .next t → t.tree.root = some u →
    u.leaves ≤ 257 ∧ u.ser.length ≤ 2826)

/-- R172, R174, R177: where the source bits at the cursor, at any bit offset, are the pre-order bits of a tree of at most
`NODE_CAP` nodes, TREE.DESER loads that tree with all weights 0, consumes exactly its bits, invalidates the code table
and sets the decoder READY at the root. Its answer is the number of bits consumed, a free value past 32 bits (log
entry 20). -/
def Obligations.DeserReadsTree : Prop :=
  ∀ (s : State) (u : Tree), s.readerReady → s.nextBits u.ser → u.nnodes ≤ s.params.nodeCap →
    ∃ t, exec .treeDeser s = .next t ∧ answeredOk t (countWord 0x32 u.ser.length) ∧
      t.tree = { root := some u.weightless, nnodes := u.nnodes } ∧ t.code = Code.none ∧
      t.dec = { st := .ready, path := [] } ∧ t.rd.pos = s.rd.pos + u.ser.length ∧ t.rd.st = .opened

/-- R176: TREE.SER of a tree of at most `NODE_CAP` nodes, then TREE.DESER of the written bits, loads a tree equal to it
in shape and symbols, with all weights 0, and consumes exactly 10·L + I bits. -/
def Obligations.TreeCodecRoundTrip : Prop :=
  ∀ (s : State) (u : Tree), s.writerReady → s.written = [] → s.tree.root = some u → u.nnodes ≤ s.params.nodeCap →
    ∃ t, execAll [.treeSer, .wrClose] s = some t ∧
      ∀ r : State, r.readerReady → r.rd.pos = 0 → r.params = s.params → r.host.src = t.host.out →
        ∃ v, exec .treeDeser r = .next v ∧ v.rstat = 0 ∧ v.tree.root = some u.weightless ∧
          v.rd.pos = 10 * u.leaves + u.internals

/-- R175: on any error of TREE.DESER past its PreCheck no tree is left loaded, the code table is invalid and the decoder
IDLE; a later CODE.DERIVE, TREE.SER or DEC.STEP then answers NO_TREE, where the unit it uses is OPEN. -/
def Obligations.DeserFailureEmptiesStore : Prop :=
  ∀ s t : State, s.rd.st = .opened → exec .treeDeser s = .next t → t.rstat ≠ 0 →
    t.tree = { root := none, nnodes := 0 } ∧ t.code = Code.none ∧ t.dec = { st := .idle, path := [] } ∧
      exec .codeDerive t = .next (t.answerError .noTree) ∧
      (t.wr.st = .opened → exec .treeSer t = .next (t.answerError .noTree)) ∧
      (t.rd.st = .opened → exec .decStep t = .next (t.answerError .noTree))

/-- R173, R174, R172: TREE.DESER refuses a leaf symbol above 256 as soon as its 9 bits are read, at the root or at any node
below it: after the first k nodes, in pre-order, of any tree with more nodes. It refuses a tree of more than `NODE_CAP`
nodes, whatever its shape, before the marker of node `NODE_CAP + 1` is read; only the bits of the nodes before that one
need be in the source, as they are where all of the tree's bits are. -/
def Obligations.DeserRefusesBadHeaders : Prop :=
  ∀ (s : State) (u : Tree), s.readerReady →
    (∀ k y : Nat, k < u.nnodes → k < s.params.nodeCap → 256 < y → y < 512 →
      s.nextBits (u.headBits k ++ true :: bitsOf 9 y) →
      ∃ t, exec .treeDeser s = .next t ∧ t.rstat = Err.symbolRange.rstat ∧ t.rval = 0 ∧
        t.rd.pos = s.rd.pos + (u.headBits k).length + 10) ∧
    (s.params.nodeCap < u.nnodes → s.nextBits (u.headBits s.params.nodeCap) →
      ∃ t, exec .treeDeser s = .next t ∧ t.rstat = Err.nodeCap.rstat ∧ t.rval = 0 ∧
        t.rd.pos = s.rd.pos + (u.headBits s.params.nodeCap).length)

/-- Frame of FREQ.COUNT and TREE.DESER (R50, R140, R172), however they answer: nothing on the writer's side; FREQ.COUNT
leaves the tree, the code table and the decoder alone, TREE.DESER the frequency table. -/
def Obligations.SourceDrainersFrame : Prop :=
  ∀ (i : Instr) (s t : State), i = .freqCount ∨ i = .treeDeser → exec i s = .next t →
    writerKept s t ∧ fixedKept s t ∧ (i = .freqCount → t.tree = s.tree ∧ t.code = s.code ∧ t.dec = s.dec) ∧
    (i = .treeDeser → t.freq = s.freq)

/-! ### Encoder (44_encoder.md) -/

/-- R190, R191: ENC.SYM on a ready writer with a valid code table transmits the symbol's whole codeword, whatever its
length, and answers that length, a free value past 32 bits (log entry 20). -/
def Obligations.EncSymTransmits : Prop :=
  ∀ (y : Nat) (w : Bits) (s : State), s.writerReady → s.code.valid = true → y ≤ 256 → s.code.cw.lookup y = some w →
    ∃ t, exec (.encSym y) s = .next t ∧ answeredOk t (countWord 0x41 w.length) ∧ t.written = s.written ++ w ∧
      t.wr.st = .opened ∧ t.wr.pend.length ≤ 7

/-- R190, R150, R170, R210, R238, R268: the refusals of commands on structures not loaded, in their order. Each is an
error answer that changes nothing else. -/
def Obligations.StructureRefusals : Prop :=
  (∀ (y : Nat) (s : State), s.wr.st = .opened →
    (256 < y → exec (.encSym y) s = .next (s.answerError .symRange)) ∧
    (y ≤ 256 → s.code.valid = false → exec (.encSym y) s = .next (s.answerError .noCodeTable)) ∧
    (y ≤ 256 → s.code.valid = true → s.code.cw.lookup y = none →
      exec (.encSym y) s = .next (s.answerError .noCodeword))) ∧
  (∀ s : State, s.tree.root = none →
    exec .codeDerive s = .next (s.answerError .noTree) ∧
    (s.wr.st = .opened → exec .treeSer s = .next (s.answerError .noTree)) ∧
    (s.rd.st = .opened → exec .decStep s = .next (s.answerError .noTree))) ∧
  (∀ s : State, s.rd.st = .opened → s.tree.root ≠ none → s.dec.st ≠ .ready →
    exec .decStep s = .next (s.answerError .decoderNotReady))

/-- R191: transmitting a codeword in one operation equals a chain of writes of at most 32 bits each, in order, whatever
the writer's state and the sink's answers. -/
def Obligations.LongCodewordIsChained : Prop :=
  ∀ (ws : List Bits) (s : State), (∀ w ∈ ws, w.length ≤ 32) →
    writeList ws.flatten s =
      ws.foldl (fun r w => r.bind fun _ s' => writeBits w.length (val w) s') (.ok ⟨⟩ s)

/-- R194, R192, R87: whenever COMPRESS answers OK from a writer with nothing pending, `OUT` has grown by exactly the
magic, the serialized tree, the codewords of every byte of the source in order and the sentinel's, padded with zeros,
and RVAL is the number of bytes. From ready units, the cursor at 0 and a source within `MAX_CHUNKS` it does answer OK,
with the tree TREE.BUILD makes of the source's counts, its codes, the decoder READY, the writer CLOSED and the reader
OPEN at the end of the source. -/
def Obligations.CompressWritesStream : Prop :=
  (∀ s t : State, s.wr.pend = [] → exec .compress s = .next t → t.rstat = 0 →
    ∃ root, t.tree.root = some root ∧ t.code.cw = root.codes ∧ t.rval = resultWord s.host.src.length ∧
      let bits := streamBits s.params.magic root t.code.cw s.host.src
      bytesBits t.host.out = bytesBits s.host.out ++ bits ++ padding bits) ∧
  (∀ s : State, s.readerReady → s.writerReady → s.rd.pos = 0 → s.host.src.length ≤ maxChunks s.params →
    ∃ t root, exec .compress s = .next t ∧ answeredOk t (resultWord s.host.src.length) ∧
      t.freq = tally (s.host.src.map BitVec.toNat) ∧ buildTree s.params.tieBreak t.freq.cnt = some root ∧
      t.tree = { root := some root, nnodes := root.nnodes } ∧ t.code = { valid := true, cw := root.codes } ∧
      t.dec = { st := .ready, path := [] } ∧ t.wr = { st := .closed, pend := [] } ∧
      t.rd.st = .opened ∧ t.rd.pos = 8 * s.host.src.length)

/-- The bytes of the magic constant, most significant first (R52). -/
def magicBytes (m : Word) : List Byte := [m.extractLsb' 24 8, m.extractLsb' 16 8, m.extractLsb' 8 8, m.extractLsb' 0 8]

/-- R197: an empty source gives the two-leaf tree of R144 and seven bytes: the magic, then 40 18 04, under every
`TIE_BREAK`. -/
def Obligations.EmptyInputStream : Prop :=
  ∀ s : State, s.readerReady → s.writerReady → s.wr.pend = [] → s.host.src = [] →
    ∃ t, exec .compress s = .next t ∧ answeredOk t 0 ∧
      t.tree.root = some (.internal 1 (.leaf 0 0) (.leaf sentinel 1)) ∧
      t.code.cw.lookup sentinel.val = some [true] ∧
      t.host.out = s.host.out ++ magicBytes s.params.magic ++ [0x40, 0x18, 0x04]

/-- R196: 1000 bytes of 0x41 give the tree of two leaves with the sentinel, the lighter one, on the left, the codewords 0
for it and 1 for 0x41, and a body of 1000 one bits and a zero. No tie arises, so every `TIE_BREAK` gives this tree. -/
def Obligations.MinimumAlphabet : Prop :=
  ∀ s : State, s.readerReady → s.writerReady → s.rd.pos = 0 → 1000 ≤ maxChunks s.params →
    s.host.src = List.replicate 1000 0x41 →
    ∃ t, exec .compress s = .next t ∧ answeredOk t 1000 ∧
      t.tree.root = some (.internal 1001 (.leaf sentinel 1) (.leaf 0x41 1000)) ∧
      t.code.cw.lookup sentinel.val = some [false] ∧ t.code.cw.lookup 0x41 = some [true] ∧
      streamBody t.code.cw s.host.src = List.replicate 1000 true ++ [false]

/-- R195: COMPRESS sends the same bytes every time for the same source, magic and tie-break, with a fresh writer, the
cursor at 0 and no host fault, whatever the stores held before. -/
def Obligations.CompressIsDeterministic : Prop :=
  ∀ s₁ s₂ t₁ t₂ : State, s₁.readerReady → s₁.writerReady → s₂.readerReady → s₂.writerReady →
    s₁.written = [] → s₂.written = [] → s₁.rd.pos = 0 → s₂.rd.pos = 0 → s₁.host.src = s₂.host.src →
    s₁.params.magic = s₂.params.magic → s₁.params.tieBreak = s₂.params.tieBreak →
    exec .compress s₁ = .next t₁ → exec .compress s₂ = .next t₂ → t₁.rstat = 0 → t₂.rstat = 0 →
    t₁.host.out = t₂.host.out

/-! ### Decoder (45_decoder.md) -/

/-- R210, R83, R151: a DEC.STEP of a READY decoder at an internal node reads one bit and descends, 0 left and 1 right. At
an internal node it answers CONTINUE; at the sentinel leaf DONE; at a data leaf it writes the symbol as 8 bits, returns
to the root and answers EMITTED with the symbol. The writer is touched only to emit. -/
def Obligations.DecStepDescends : Prop :=
  ∀ (s : State) (root l r : Tree) (w : Nat), s.rd.st = .opened → s.host.srcErr.draw.1 = false →
    s.rd.pos + 1 ≤ 8 * s.host.src.length → s.dec.st = .ready → s.tree.root = some root →
    root.subtree s.dec.path = some (.internal w l r) →
    let b := bitAt s.host.src s.rd.pos
    let child := if b then r else l
    (child.isLeaf = false →
      ∃ t, exec .decStep s = .next t ∧ answeredOk t 0 ∧ t.rd.pos = s.rd.pos + 1 ∧
        t.dec = { st := .ready, path := s.dec.path ++ [b] } ∧ writerKept s t) ∧
    (∀ w', child = .leaf sentinel w' →
      ∃ t, exec .decStep s = .next t ∧ t.rstat = 0x01002000 ∧ t.rval = 0 ∧ t.rd.pos = s.rd.pos + 1 ∧
        t.dec = { st := .done, path := s.dec.path ++ [b] } ∧ writerKept s t) ∧
    (∀ (y : Symbol) (w' : Nat), child = .leaf y w' → y ≠ sentinel → s.writerReady →
      ∃ t, exec .decStep s = .next t ∧ t.rstat = rstatWord 0 0 1 (BitVec.ofNat 9 y.val) ∧ t.rval = 0 ∧
        t.rd.pos = s.rd.pos + 1 ∧ t.dec = { st := .ready, path := [] } ∧
        t.written = s.written ++ bitsOf 8 y.val ∧ t.wr.st = .opened ∧ t.wr.pend.length ≤ 7)

/-- R210, R212: the errors of a DEC.STEP past its DECODER_NOT_READY check leave the decoder FAILED: a leaf root before
any bit is read, the end of the source with nothing consumed, and a byte WR cannot take with the bit consumed. -/
def Obligations.DecStepErrors : Prop :=
  ∀ (s : State) (root : Tree), s.rd.st = .opened → s.dec.st = .ready → s.tree.root = some root →
    (root.isLeaf = true →
      ∃ t, exec .decStep s = .next t ∧ t.rstat = Err.leafRoot.rstat ∧ t.rval = 0 ∧ t.rd = s.rd ∧
        t.dec = { s.dec with st := .failed }) ∧
    (root.isLeaf = false → s.host.srcErr.draw.1 = false → 8 * s.host.src.length < s.rd.pos + 1 →
      ∃ t, exec .decStep s = .next t ∧ t.rstat = Err.endOfStream.rstat ∧ t.rval = 0 ∧ t.rd.pos = s.rd.pos ∧
        t.dec = { s.dec with st := .failed }) ∧
    (∀ (y : Symbol) (w : Nat), s.host.srcErr.draw.1 = false → s.rd.pos + 1 ≤ 8 * s.host.src.length →
      root.isLeaf = false →
      root.subtree (s.dec.path ++ [bitAt s.host.src s.rd.pos]) = some (.leaf y w) → y ≠ sentinel →
      s.wr.st ≠ .opened →
      ∃ t, exec .decStep s = .next t ∧
        t.rstat = (if s.wr.st = .closed then Err.unitClosed.rstat else Err.stickyWr.rstat) ∧ t.rval = 0 ∧
        t.rd.pos = s.rd.pos + 1 ∧
        t.dec = { st := .failed, path := s.dec.path ++ [bitAt s.host.src s.rd.pos] } ∧ writerKept s t)

/-- R212: which commands write the decoder, and how: only a tree load, DEC.STEP and the macros; a DEC.STEP of a decoder
that is not READY leaves it alone, an OK one leaves it READY or DONE, and one that raises past that check FAILED. -/
def Obligations.DecoderTransitions : Prop :=
  ∀ (i : Instr) (s t : State), exec i s = .next t →
    (i ≠ .treeBuild → i ≠ .treeDeser → i ≠ .decStep → i ≠ .compress → i ≠ .decompress → t.dec = s.dec) ∧
    (i = .treeBuild → t.dec = { st := .ready, path := [] }) ∧
    (i = .treeDeser → s.rd.st = .opened →
      t.dec = if t.rstat = 0 then { st := .ready, path := [] } else { st := .idle, path := [] }) ∧
    (i = .decStep → s.dec.st ≠ .ready → t.dec = s.dec) ∧
    (i = .decStep → rstatStatus t.rstat = 0 →
      t.rd.pos = s.rd.pos + 1 ∧ t.dec.st = (if rstatEvent t.rstat = 2 then .done else .ready)) ∧
    (i = .decStep → s.dec.st = .ready → s.tree.root ≠ none → s.rd.st = .opened → rstatStatus t.rstat ≠ 0 →
      t.dec.st = .failed)

/-- Frame of DEC.STEP and of the macros (R192, R210, R213): DEC.STEP and DECOMPRESS leave the frequency table alone, and
DEC.STEP the tree and the code table too; COMPRESS leaves the decoder READY at the root where it answers OK, SINK_IO or
NO_CODEWORD, which come after its tree is built, as it was where PreCheck refuses it or it answers CAPACITY, and one of
the two where a source fault ends it. `SRC`, the parameters and the command registers are kept by every command. -/
def Obligations.DecoderAndMacroFrame : Prop :=
  ∀ (i : Instr) (s t : State), i = .decStep ∨ i = .compress ∨ i = .decompress → exec i s = .next t →
    fixedKept s t ∧ s.host.out <+: t.host.out ∧
    (i = .decStep → t.freq = s.freq ∧ t.tree = s.tree ∧ t.code = s.code) ∧
    (i = .decompress → t.freq = s.freq) ∧
    (i = .compress → t.dec = s.dec ∨ t.dec = { st := .ready, path := [] }) ∧
    (i = .compress → t.rstat = 0 ∨ t.rstat = Err.sinkIO.rstat ∨ t.rstat = Err.noCodeword.rstat →
      t.dec = { st := .ready, path := [] }) ∧
    (i = .compress → t.rstat ∈ [Err.unitClosed.rstat, Err.stickyRd.rstat, Err.stickyWr.rstat, Err.capacity.rstat] →
      t.dec = s.dec)

/-- R213, R214, R215: the magic check. Fewer than 32 bits are NO_MAGIC, 32 other bits BAD_MAGIC, a source fault SOURCE_IO;
each ends DECOMPRESS with the sink untouched and the stores as they were. -/
def Obligations.MagicCheck : Prop :=
  ∀ s : State, s.rd.st = .opened → s.wr.st = .opened →
    (s.host.srcErr.draw.1 = true →
      ∃ t, exec .decompress s = .next t ∧ t.rstat = Err.sourceIO.rstat ∧ t.rval = 0 ∧ t.rd.pos = s.rd.pos ∧
        writerKept s t ∧ storesKept s t) ∧
    (s.host.srcErr.draw.1 = false → 8 * s.host.src.length < s.rd.pos + 32 →
      ∃ t, exec .decompress s = .next t ∧ t.rstat = Err.noMagic.rstat ∧ t.rval = 0 ∧ t.rd.pos = s.rd.pos ∧
        writerKept s t ∧ storesKept s t) ∧
    (s.host.srcErr.draw.1 = false → s.rd.pos + 32 ≤ 8 * s.host.src.length →
      bitsAt s.host.src s.rd.pos 32 ≠ bitsOf 32 s.params.magic.toNat →
      ∃ t, exec .decompress s = .next t ∧ t.rstat = Err.badMagic.rstat ∧ t.rval = 0 ∧ t.rd.pos = s.rd.pos + 32 ∧
        writerKept s t ∧ storesKept s t)

/-- The path of every chunk and of the sentinel in `cw` leads to its leaf in `u`. -/
abbrev codesFor (u : Tree) (cw : CodeTable) (chunks : List Byte) : Prop :=
  (∀ c ∈ chunks, ∃ y w, y.val = c.toNat ∧ u.subtree (cw.word c.toNat) = some (.leaf y w)) ∧
    ∃ w, u.subtree (cw.word sentinel.val) = some (.leaf sentinel w)

/-- R213, R216, R87: from ready units with nothing pending, where the source holds at the cursor the magic, a serialized
tree that is not a lone leaf and a body of codewords that lead to its leaves, DECOMPRESS answers OK with the number of
chunks, sends exactly them, closes the writer, and stops at the last bit of the sentinel's codeword, whatever
follows. -/
def Obligations.DecompressDecodesStream : Prop :=
  ∀ (s : State) (u : Tree) (cw : CodeTable) (chunks : List Byte), s.readerReady → s.writerReady → s.wr.pend = [] →
    u.isLeaf = false → u.nnodes ≤ s.params.nodeCap → codesFor u cw chunks →
    s.nextBits (streamBits s.params.magic u cw chunks) →
    ∃ t, exec .decompress s = .next t ∧ answeredOk t (resultWord chunks.length) ∧
      t.host.out = s.host.out ++ chunks ∧ t.wr = { st := .closed, pend := [] } ∧ t.rd.st = .opened ∧
      t.rd.pos = s.rd.pos + (streamBits s.params.magic u cw chunks).length ∧
      t.tree = { root := some u.weightless, nnodes := u.nnodes } ∧ t.code = Code.none ∧
      t.dec = { st := .done, path := cw.word sentinel.val } ∧ t.freq = s.freq

/-- R217, CA §8 "Round-trip": with no host fault, for every source within `MAX_CHUNKS`, DECOMPRESS of what COMPRESS wrote
into a fresh sink answers OK, sends the source back byte for byte, and answers its length modulo 2^32. -/
def Obligations.RoundTrip : Prop :=
  ∀ s : State, s.readerReady → s.writerReady → s.written = [] → s.rd.pos = 0 → paramsInv s →
    s.host.src.length ≤ maxChunks s.params →
    ∃ t, exec .compress s = .next t ∧ t.rstat = 0 ∧
      ∀ r : State, r.readerReady → r.writerReady → r.written = [] → r.rd.pos = 0 → paramsInv r →
        r.params.magic = s.params.magic → r.host.src = t.host.out →
        ∃ v, exec .decompress r = .next v ∧ v.rstat = 0 ∧ v.host.out = s.host.src ∧
          v.rval = resultWord s.host.src.length

/-- R218, CA §8 "Truncation": a stream an OK COMPRESS wrote into a fresh sink, wherever its cursor stood, cut short of its
last byte, decodes to NO_MAGIC where fewer than 4 bytes are left and to END_OF_STREAM otherwise, and every byte sent
before the error is a prefix of the input. -/
def Obligations.TruncatedStreamFails : Prop :=
  ∀ (s t r : State) (k : Nat), s.written = [] →
    exec .compress s = .next t → t.rstat = 0 → k < t.host.out.length →
    r.readerReady → r.writerReady → r.written = [] → r.rd.pos = 0 → paramsInv r →
    r.params.magic = s.params.magic → r.host.src = t.host.out.take k →
    ∃ v, exec .decompress r = .next v ∧
      v.rstat = (if k < 4 then Err.noMagic.rstat else Err.endOfStream.rstat) ∧ v.host.out <+: s.host.src

/-! ### Termination and the invariant -/

/-- R219, R273: every loop of the block ends within the bound the model gives it (log entry 15): more rounds change nothing. The bounds
are the source's length for the counting and encoding passes, its bits for decoding, `NODE_CAP` for TREE.DESER, and the
nodes in Q for TREE.BUILD. -/
def Obligations.LoopsEnd : Prop :=
  (∀ (k : Nat) (s : State), countLoop (s.host.src.length + 1 + k) s = countLoop (s.host.src.length + 1) s) ∧
  (∀ (k e : Nat) (s : State), encodeLoop (s.host.src.length + 1 + k) e s = encodeLoop (s.host.src.length + 1) e s) ∧
  (∀ (k e : Nat) (s : State), s.rd.pos ≤ 8 * s.host.src.length →
    decodeLoop (8 * s.host.src.length + 1 + k) e s = decodeLoop (8 * s.host.src.length - s.rd.pos + 1) e s) ∧
  (∀ (k : Nat) (s : State), desTree (s.params.nodeCap + 1 + k) 0 s = desTree (s.params.nodeCap + 1) 0 s) ∧
  (∀ (k : Nat) (tb : TieBreak) (q : Queue), mergeLoop tb (q.items.length + k) q = mergeLoop tb q.items.length q)

/-- R26, R29, R31, R32, R34, R35, R36, R79 to R83, R22: the invariant of the machine holds in the model's reset state,
whose parameters are the defaults of R6 (log entries 1 to 8 name the values that are the model's). -/
def Obligations.InvariantAtReset : Prop := StateInv State.reset

/-- R26, R29, R31, R32, R34, R35, R36, R79 to R83, R22: every step, a command, a refused command word, a hardware reset or
idling, keeps the invariant of the machine, whatever the host answers. Its clause on the RD buffer is about the
model's reference datapath (log entry 5), and its clause on the parameters is log entry 18's. -/
def Obligations.InvariantKeptByStep : Prop :=
  ∀ s t : State, StateInv s → step s = .next t → StateInv t

/-- R230, R74, R273, R36: under the invariant every step answers: no command word, no operand, no source and no host
answer makes the machine stop. -/
def Obligations.EveryStepAnswers : Prop :=
  ∀ s : State, StateInv s → ∃ t, step s = .next t
end

