-- ==== Sys2Proof/Laws/State.lean ====
section
/-! SUPPORT. One lemma per field per update of the state, each true by unfolding, so that no later proof unfolds a
record update. `<update>_<field>` says what the field is after the update. -/

namespace Sys2Proof.Machine

variable (s : State)

/-! ### setRd -/

@[simp] theorem State.setRd_cmd (r : Reader) : (s.setRd r).cmd = s.cmd := rfl
@[simp] theorem State.setRd_data (r : Reader) : (s.setRd r).data = s.data := rfl
@[simp] theorem State.setRd_rstat (r : Reader) : (s.setRd r).rstat = s.rstat := rfl
@[simp] theorem State.setRd_rval (r : Reader) : (s.setRd r).rval = s.rval := rfl
@[simp] theorem State.setRd_macroStep (r : Reader) : (s.setRd r).macroStep = s.macroStep := rfl
@[simp] theorem State.setRd_rd (r : Reader) : (s.setRd r).rd = r := rfl
@[simp] theorem State.setRd_wr (r : Reader) : (s.setRd r).wr = s.wr := rfl
@[simp] theorem State.setRd_freq (r : Reader) : (s.setRd r).freq = s.freq := rfl
@[simp] theorem State.setRd_tree (r : Reader) : (s.setRd r).tree = s.tree := rfl
@[simp] theorem State.setRd_code (r : Reader) : (s.setRd r).code = s.code := rfl
@[simp] theorem State.setRd_dec (r : Reader) : (s.setRd r).dec = s.dec := rfl
@[simp] theorem State.setRd_host (r : Reader) : (s.setRd r).host = s.host := rfl
@[simp] theorem State.setRd_params (r : Reader) : (s.setRd r).params = s.params := rfl

/-! ### setWr -/

@[simp] theorem State.setWr_cmd (w : Writer) : (s.setWr w).cmd = s.cmd := rfl
@[simp] theorem State.setWr_data (w : Writer) : (s.setWr w).data = s.data := rfl
@[simp] theorem State.setWr_rstat (w : Writer) : (s.setWr w).rstat = s.rstat := rfl
@[simp] theorem State.setWr_rval (w : Writer) : (s.setWr w).rval = s.rval := rfl
@[simp] theorem State.setWr_macroStep (w : Writer) : (s.setWr w).macroStep = s.macroStep := rfl
@[simp] theorem State.setWr_rd (w : Writer) : (s.setWr w).rd = s.rd := rfl
@[simp] theorem State.setWr_wr (w : Writer) : (s.setWr w).wr = w := rfl
@[simp] theorem State.setWr_freq (w : Writer) : (s.setWr w).freq = s.freq := rfl
@[simp] theorem State.setWr_tree (w : Writer) : (s.setWr w).tree = s.tree := rfl
@[simp] theorem State.setWr_code (w : Writer) : (s.setWr w).code = s.code := rfl
@[simp] theorem State.setWr_dec (w : Writer) : (s.setWr w).dec = s.dec := rfl
@[simp] theorem State.setWr_host (w : Writer) : (s.setWr w).host = s.host := rfl
@[simp] theorem State.setWr_params (w : Writer) : (s.setWr w).params = s.params := rfl

/-! ### setFreq -/

@[simp] theorem State.setFreq_cmd (f : Freq) : (s.setFreq f).cmd = s.cmd := rfl
@[simp] theorem State.setFreq_data (f : Freq) : (s.setFreq f).data = s.data := rfl
@[simp] theorem State.setFreq_rstat (f : Freq) : (s.setFreq f).rstat = s.rstat := rfl
@[simp] theorem State.setFreq_rval (f : Freq) : (s.setFreq f).rval = s.rval := rfl
@[simp] theorem State.setFreq_macroStep (f : Freq) : (s.setFreq f).macroStep = s.macroStep := rfl
@[simp] theorem State.setFreq_rd (f : Freq) : (s.setFreq f).rd = s.rd := rfl
@[simp] theorem State.setFreq_wr (f : Freq) : (s.setFreq f).wr = s.wr := rfl
@[simp] theorem State.setFreq_freq (f : Freq) : (s.setFreq f).freq = f := rfl
@[simp] theorem State.setFreq_tree (f : Freq) : (s.setFreq f).tree = s.tree := rfl
@[simp] theorem State.setFreq_code (f : Freq) : (s.setFreq f).code = s.code := rfl
@[simp] theorem State.setFreq_dec (f : Freq) : (s.setFreq f).dec = s.dec := rfl
@[simp] theorem State.setFreq_host (f : Freq) : (s.setFreq f).host = s.host := rfl
@[simp] theorem State.setFreq_params (f : Freq) : (s.setFreq f).params = s.params := rfl

/-! ### setTree -/

@[simp] theorem State.setTree_cmd (t : TreeStore) : (s.setTree t).cmd = s.cmd := rfl
@[simp] theorem State.setTree_data (t : TreeStore) : (s.setTree t).data = s.data := rfl
@[simp] theorem State.setTree_rstat (t : TreeStore) : (s.setTree t).rstat = s.rstat := rfl
@[simp] theorem State.setTree_rval (t : TreeStore) : (s.setTree t).rval = s.rval := rfl
@[simp] theorem State.setTree_macroStep (t : TreeStore) : (s.setTree t).macroStep = s.macroStep := rfl
@[simp] theorem State.setTree_rd (t : TreeStore) : (s.setTree t).rd = s.rd := rfl
@[simp] theorem State.setTree_wr (t : TreeStore) : (s.setTree t).wr = s.wr := rfl
@[simp] theorem State.setTree_freq (t : TreeStore) : (s.setTree t).freq = s.freq := rfl
@[simp] theorem State.setTree_tree (t : TreeStore) : (s.setTree t).tree = t := rfl
@[simp] theorem State.setTree_code (t : TreeStore) : (s.setTree t).code = s.code := rfl
@[simp] theorem State.setTree_dec (t : TreeStore) : (s.setTree t).dec = s.dec := rfl
@[simp] theorem State.setTree_host (t : TreeStore) : (s.setTree t).host = s.host := rfl
@[simp] theorem State.setTree_params (t : TreeStore) : (s.setTree t).params = s.params := rfl

/-! ### setCode -/

@[simp] theorem State.setCode_cmd (c : Code) : (s.setCode c).cmd = s.cmd := rfl
@[simp] theorem State.setCode_data (c : Code) : (s.setCode c).data = s.data := rfl
@[simp] theorem State.setCode_rstat (c : Code) : (s.setCode c).rstat = s.rstat := rfl
@[simp] theorem State.setCode_rval (c : Code) : (s.setCode c).rval = s.rval := rfl
@[simp] theorem State.setCode_macroStep (c : Code) : (s.setCode c).macroStep = s.macroStep := rfl
@[simp] theorem State.setCode_rd (c : Code) : (s.setCode c).rd = s.rd := rfl
@[simp] theorem State.setCode_wr (c : Code) : (s.setCode c).wr = s.wr := rfl
@[simp] theorem State.setCode_freq (c : Code) : (s.setCode c).freq = s.freq := rfl
@[simp] theorem State.setCode_tree (c : Code) : (s.setCode c).tree = s.tree := rfl
@[simp] theorem State.setCode_code (c : Code) : (s.setCode c).code = c := rfl
@[simp] theorem State.setCode_dec (c : Code) : (s.setCode c).dec = s.dec := rfl
@[simp] theorem State.setCode_host (c : Code) : (s.setCode c).host = s.host := rfl
@[simp] theorem State.setCode_params (c : Code) : (s.setCode c).params = s.params := rfl

/-! ### setDec -/

@[simp] theorem State.setDec_cmd (d : Decoder) : (s.setDec d).cmd = s.cmd := rfl
@[simp] theorem State.setDec_data (d : Decoder) : (s.setDec d).data = s.data := rfl
@[simp] theorem State.setDec_rstat (d : Decoder) : (s.setDec d).rstat = s.rstat := rfl
@[simp] theorem State.setDec_rval (d : Decoder) : (s.setDec d).rval = s.rval := rfl
@[simp] theorem State.setDec_macroStep (d : Decoder) : (s.setDec d).macroStep = s.macroStep := rfl
@[simp] theorem State.setDec_rd (d : Decoder) : (s.setDec d).rd = s.rd := rfl
@[simp] theorem State.setDec_wr (d : Decoder) : (s.setDec d).wr = s.wr := rfl
@[simp] theorem State.setDec_freq (d : Decoder) : (s.setDec d).freq = s.freq := rfl
@[simp] theorem State.setDec_tree (d : Decoder) : (s.setDec d).tree = s.tree := rfl
@[simp] theorem State.setDec_code (d : Decoder) : (s.setDec d).code = s.code := rfl
@[simp] theorem State.setDec_dec (d : Decoder) : (s.setDec d).dec = d := rfl
@[simp] theorem State.setDec_host (d : Decoder) : (s.setDec d).host = s.host := rfl
@[simp] theorem State.setDec_params (d : Decoder) : (s.setDec d).params = s.params := rfl

/-! ### setHost -/

@[simp] theorem State.setHost_cmd (h : HostSide) : (s.setHost h).cmd = s.cmd := rfl
@[simp] theorem State.setHost_data (h : HostSide) : (s.setHost h).data = s.data := rfl
@[simp] theorem State.setHost_rstat (h : HostSide) : (s.setHost h).rstat = s.rstat := rfl
@[simp] theorem State.setHost_rval (h : HostSide) : (s.setHost h).rval = s.rval := rfl
@[simp] theorem State.setHost_macroStep (h : HostSide) : (s.setHost h).macroStep = s.macroStep := rfl
@[simp] theorem State.setHost_rd (h : HostSide) : (s.setHost h).rd = s.rd := rfl
@[simp] theorem State.setHost_wr (h : HostSide) : (s.setHost h).wr = s.wr := rfl
@[simp] theorem State.setHost_freq (h : HostSide) : (s.setHost h).freq = s.freq := rfl
@[simp] theorem State.setHost_tree (h : HostSide) : (s.setHost h).tree = s.tree := rfl
@[simp] theorem State.setHost_code (h : HostSide) : (s.setHost h).code = s.code := rfl
@[simp] theorem State.setHost_dec (h : HostSide) : (s.setHost h).dec = s.dec := rfl
@[simp] theorem State.setHost_host (h : HostSide) : (s.setHost h).host = h := rfl
@[simp] theorem State.setHost_params (h : HostSide) : (s.setHost h).params = s.params := rfl

/-! ### setMacroStep -/

@[simp] theorem State.setMacroStep_cmd (k : Fin 10) : (s.setMacroStep k).cmd = s.cmd := rfl
@[simp] theorem State.setMacroStep_data (k : Fin 10) : (s.setMacroStep k).data = s.data := rfl
@[simp] theorem State.setMacroStep_rstat (k : Fin 10) : (s.setMacroStep k).rstat = s.rstat := rfl
@[simp] theorem State.setMacroStep_rval (k : Fin 10) : (s.setMacroStep k).rval = s.rval := rfl
@[simp] theorem State.setMacroStep_macroStep (k : Fin 10) : (s.setMacroStep k).macroStep = k := rfl
@[simp] theorem State.setMacroStep_rd (k : Fin 10) : (s.setMacroStep k).rd = s.rd := rfl
@[simp] theorem State.setMacroStep_wr (k : Fin 10) : (s.setMacroStep k).wr = s.wr := rfl
@[simp] theorem State.setMacroStep_freq (k : Fin 10) : (s.setMacroStep k).freq = s.freq := rfl
@[simp] theorem State.setMacroStep_tree (k : Fin 10) : (s.setMacroStep k).tree = s.tree := rfl
@[simp] theorem State.setMacroStep_code (k : Fin 10) : (s.setMacroStep k).code = s.code := rfl
@[simp] theorem State.setMacroStep_dec (k : Fin 10) : (s.setMacroStep k).dec = s.dec := rfl
@[simp] theorem State.setMacroStep_host (k : Fin 10) : (s.setMacroStep k).host = s.host := rfl
@[simp] theorem State.setMacroStep_params (k : Fin 10) : (s.setMacroStep k).params = s.params := rfl

/-! ### answer -/

@[simp] theorem State.answer_cmd (a : Answer) : (s.answer a).cmd = s.cmd := rfl
@[simp] theorem State.answer_data (a : Answer) : (s.answer a).data = s.data := rfl
@[simp] theorem State.answer_rstat (a : Answer) : (s.answer a).rstat = a.rstat := rfl
@[simp] theorem State.answer_rval (a : Answer) : (s.answer a).rval = a.rval := rfl
@[simp] theorem State.answer_macroStep (a : Answer) : (s.answer a).macroStep = 0 := rfl
@[simp] theorem State.answer_rd (a : Answer) : (s.answer a).rd = s.rd := rfl
@[simp] theorem State.answer_wr (a : Answer) : (s.answer a).wr = s.wr := rfl
@[simp] theorem State.answer_freq (a : Answer) : (s.answer a).freq = s.freq := rfl
@[simp] theorem State.answer_tree (a : Answer) : (s.answer a).tree = s.tree := rfl
@[simp] theorem State.answer_code (a : Answer) : (s.answer a).code = s.code := rfl
@[simp] theorem State.answer_dec (a : Answer) : (s.answer a).dec = s.dec := rfl
@[simp] theorem State.answer_host (a : Answer) : (s.answer a).host = s.host := rfl
@[simp] theorem State.answer_params (a : Answer) : (s.answer a).params = s.params := rfl

/-! ### answerError -/

@[simp] theorem State.answerError_cmd (e : Err) : (s.answerError e).cmd = s.cmd := rfl
@[simp] theorem State.answerError_data (e : Err) : (s.answerError e).data = s.data := rfl
@[simp] theorem State.answerError_rstat (e : Err) : (s.answerError e).rstat = e.rstat := rfl
@[simp] theorem State.answerError_rval (e : Err) : (s.answerError e).rval = 0 := rfl
@[simp] theorem State.answerError_macroStep (e : Err) : (s.answerError e).macroStep = 0 := rfl
@[simp] theorem State.answerError_rd (e : Err) : (s.answerError e).rd = s.rd := rfl
@[simp] theorem State.answerError_wr (e : Err) : (s.answerError e).wr = s.wr := rfl
@[simp] theorem State.answerError_freq (e : Err) : (s.answerError e).freq = s.freq := rfl
@[simp] theorem State.answerError_tree (e : Err) : (s.answerError e).tree = s.tree := rfl
@[simp] theorem State.answerError_code (e : Err) : (s.answerError e).code = s.code := rfl
@[simp] theorem State.answerError_dec (e : Err) : (s.answerError e).dec = s.dec := rfl
@[simp] theorem State.answerError_host (e : Err) : (s.answerError e).host = s.host := rfl
@[simp] theorem State.answerError_params (e : Err) : (s.answerError e).params = s.params := rfl

/-! ### failRd -/

@[simp] theorem State.failRd_cmd : (s.failRd).cmd = s.cmd := rfl
@[simp] theorem State.failRd_data : (s.failRd).data = s.data := rfl
@[simp] theorem State.failRd_rstat : (s.failRd).rstat = s.rstat := rfl
@[simp] theorem State.failRd_rval : (s.failRd).rval = s.rval := rfl
@[simp] theorem State.failRd_macroStep : (s.failRd).macroStep = s.macroStep := rfl
@[simp] theorem State.failRd_rd : (s.failRd).rd = { s.rd with st := .failed } := rfl
@[simp] theorem State.failRd_wr : (s.failRd).wr = s.wr := rfl
@[simp] theorem State.failRd_freq : (s.failRd).freq = s.freq := rfl
@[simp] theorem State.failRd_tree : (s.failRd).tree = s.tree := rfl
@[simp] theorem State.failRd_code : (s.failRd).code = s.code := rfl
@[simp] theorem State.failRd_dec : (s.failRd).dec = s.dec := rfl
@[simp] theorem State.failRd_host : (s.failRd).host = s.host := rfl
@[simp] theorem State.failRd_params : (s.failRd).params = s.params := rfl

/-! ### refilled -/

@[simp] theorem State.refilled_cmd (n : Nat) : (s.refilled n).cmd = s.cmd := rfl
@[simp] theorem State.refilled_data (n : Nat) : (s.refilled n).data = s.data := rfl
@[simp] theorem State.refilled_rstat (n : Nat) : (s.refilled n).rstat = s.rstat := rfl
@[simp] theorem State.refilled_rval (n : Nat) : (s.refilled n).rval = s.rval := rfl
@[simp] theorem State.refilled_macroStep (n : Nat) : (s.refilled n).macroStep = s.macroStep := rfl
@[simp] theorem State.refilled_rd (n : Nat) :
    (s.refilled n).rd =
      { s.rd with buf := s.rd.buf.refill s.host.src n n } := rfl
@[simp] theorem State.refilled_wr (n : Nat) : (s.refilled n).wr = s.wr := rfl
@[simp] theorem State.refilled_freq (n : Nat) : (s.refilled n).freq = s.freq := rfl
@[simp] theorem State.refilled_tree (n : Nat) : (s.refilled n).tree = s.tree := rfl
@[simp] theorem State.refilled_code (n : Nat) : (s.refilled n).code = s.code := rfl
@[simp] theorem State.refilled_dec (n : Nat) : (s.refilled n).dec = s.dec := rfl
@[simp] theorem State.refilled_host (n : Nat) : (s.refilled n).host = s.host := rfl
@[simp] theorem State.refilled_params (n : Nat) : (s.refilled n).params = s.params := rfl

/-! ### advanced -/

@[simp] theorem State.advanced_cmd (n : Nat) : (s.advanced n).cmd = s.cmd := rfl
@[simp] theorem State.advanced_data (n : Nat) : (s.advanced n).data = s.data := rfl
@[simp] theorem State.advanced_rstat (n : Nat) : (s.advanced n).rstat = s.rstat := rfl
@[simp] theorem State.advanced_rval (n : Nat) : (s.advanced n).rval = s.rval := rfl
@[simp] theorem State.advanced_macroStep (n : Nat) : (s.advanced n).macroStep = s.macroStep := rfl
@[simp] theorem State.advanced_rd (n : Nat) :
    (s.advanced n).rd =
      { s.rd with pos := s.rd.pos + n, buf := s.rd.buf.consume n } := rfl
@[simp] theorem State.advanced_wr (n : Nat) : (s.advanced n).wr = s.wr := rfl
@[simp] theorem State.advanced_freq (n : Nat) : (s.advanced n).freq = s.freq := rfl
@[simp] theorem State.advanced_tree (n : Nat) : (s.advanced n).tree = s.tree := rfl
@[simp] theorem State.advanced_code (n : Nat) : (s.advanced n).code = s.code := rfl
@[simp] theorem State.advanced_dec (n : Nat) : (s.advanced n).dec = s.dec := rfl
@[simp] theorem State.advanced_host (n : Nat) : (s.advanced n).host = s.host := rfl
@[simp] theorem State.advanced_params (n : Nat) : (s.advanced n).params = s.params := rfl

/-! ### rewound -/

@[simp] theorem State.rewound_cmd : (s.rewound).cmd = s.cmd := rfl
@[simp] theorem State.rewound_data : (s.rewound).data = s.data := rfl
@[simp] theorem State.rewound_rstat : (s.rewound).rstat = s.rstat := rfl
@[simp] theorem State.rewound_rval : (s.rewound).rval = s.rval := rfl
@[simp] theorem State.rewound_macroStep : (s.rewound).macroStep = s.macroStep := rfl
@[simp] theorem State.rewound_rd : (s.rewound).rd = { s.rd with pos := 0, buf := ReadBuffer.empty } := rfl
@[simp] theorem State.rewound_wr : (s.rewound).wr = s.wr := rfl
@[simp] theorem State.rewound_freq : (s.rewound).freq = s.freq := rfl
@[simp] theorem State.rewound_tree : (s.rewound).tree = s.tree := rfl
@[simp] theorem State.rewound_code : (s.rewound).code = s.code := rfl
@[simp] theorem State.rewound_dec : (s.rewound).dec = s.dec := rfl
@[simp] theorem State.rewound_host : (s.rewound).host = s.host := rfl
@[simp] theorem State.rewound_params : (s.rewound).params = s.params := rfl

/-! ### releasedRd -/

@[simp] theorem State.releasedRd_cmd : (s.releasedRd).cmd = s.cmd := rfl
@[simp] theorem State.releasedRd_data : (s.releasedRd).data = s.data := rfl
@[simp] theorem State.releasedRd_rstat : (s.releasedRd).rstat = s.rstat := rfl
@[simp] theorem State.releasedRd_rval : (s.releasedRd).rval = s.rval := rfl
@[simp] theorem State.releasedRd_macroStep : (s.releasedRd).macroStep = s.macroStep := rfl
@[simp] theorem State.releasedRd_rd : (s.releasedRd).rd = { s.rd with st := .closed } := rfl
@[simp] theorem State.releasedRd_wr : (s.releasedRd).wr = s.wr := rfl
@[simp] theorem State.releasedRd_freq : (s.releasedRd).freq = s.freq := rfl
@[simp] theorem State.releasedRd_tree : (s.releasedRd).tree = s.tree := rfl
@[simp] theorem State.releasedRd_code : (s.releasedRd).code = s.code := rfl
@[simp] theorem State.releasedRd_dec : (s.releasedRd).dec = s.dec := rfl
@[simp] theorem State.releasedRd_host : (s.releasedRd).host = s.host := rfl
@[simp] theorem State.releasedRd_params : (s.releasedRd).params = s.params := rfl

/-! ### closedRd -/

@[simp] theorem State.closedRd_cmd : (s.closedRd).cmd = s.cmd := rfl
@[simp] theorem State.closedRd_data : (s.closedRd).data = s.data := rfl
@[simp] theorem State.closedRd_rstat : (s.closedRd).rstat = s.rstat := rfl
@[simp] theorem State.closedRd_rval : (s.closedRd).rval = s.rval := rfl
@[simp] theorem State.closedRd_macroStep : (s.closedRd).macroStep = s.macroStep := rfl
@[simp] theorem State.closedRd_rd : (s.closedRd).rd = { s.rd with st := .closed, buf := ReadBuffer.empty } := rfl
@[simp] theorem State.closedRd_wr : (s.closedRd).wr = s.wr := rfl
@[simp] theorem State.closedRd_freq : (s.closedRd).freq = s.freq := rfl
@[simp] theorem State.closedRd_tree : (s.closedRd).tree = s.tree := rfl
@[simp] theorem State.closedRd_code : (s.closedRd).code = s.code := rfl
@[simp] theorem State.closedRd_dec : (s.closedRd).dec = s.dec := rfl
@[simp] theorem State.closedRd_host : (s.closedRd).host = s.host := rfl
@[simp] theorem State.closedRd_params : (s.closedRd).params = s.params := rfl

/-! ### setPend -/

@[simp] theorem State.setPend_cmd (p : Bits) : (s.setPend p).cmd = s.cmd := rfl
@[simp] theorem State.setPend_data (p : Bits) : (s.setPend p).data = s.data := rfl
@[simp] theorem State.setPend_rstat (p : Bits) : (s.setPend p).rstat = s.rstat := rfl
@[simp] theorem State.setPend_rval (p : Bits) : (s.setPend p).rval = s.rval := rfl
@[simp] theorem State.setPend_macroStep (p : Bits) : (s.setPend p).macroStep = s.macroStep := rfl
@[simp] theorem State.setPend_rd (p : Bits) : (s.setPend p).rd = s.rd := rfl
@[simp] theorem State.setPend_wr (p : Bits) : (s.setPend p).wr = { s.wr with pend := p } := rfl
@[simp] theorem State.setPend_freq (p : Bits) : (s.setPend p).freq = s.freq := rfl
@[simp] theorem State.setPend_tree (p : Bits) : (s.setPend p).tree = s.tree := rfl
@[simp] theorem State.setPend_code (p : Bits) : (s.setPend p).code = s.code := rfl
@[simp] theorem State.setPend_dec (p : Bits) : (s.setPend p).dec = s.dec := rfl
@[simp] theorem State.setPend_host (p : Bits) : (s.setPend p).host = s.host := rfl
@[simp] theorem State.setPend_params (p : Bits) : (s.setPend p).params = s.params := rfl

/-! ### failWr -/

@[simp] theorem State.failWr_cmd : (s.failWr).cmd = s.cmd := rfl
@[simp] theorem State.failWr_data : (s.failWr).data = s.data := rfl
@[simp] theorem State.failWr_rstat : (s.failWr).rstat = s.rstat := rfl
@[simp] theorem State.failWr_rval : (s.failWr).rval = s.rval := rfl
@[simp] theorem State.failWr_macroStep : (s.failWr).macroStep = s.macroStep := rfl
@[simp] theorem State.failWr_rd : (s.failWr).rd = s.rd := rfl
@[simp] theorem State.failWr_wr : (s.failWr).wr = { st := .failed, pend := [] } := rfl
@[simp] theorem State.failWr_freq : (s.failWr).freq = s.freq := rfl
@[simp] theorem State.failWr_tree : (s.failWr).tree = s.tree := rfl
@[simp] theorem State.failWr_code : (s.failWr).code = s.code := rfl
@[simp] theorem State.failWr_dec : (s.failWr).dec = s.dec := rfl
@[simp] theorem State.failWr_host : (s.failWr).host = s.host := rfl
@[simp] theorem State.failWr_params : (s.failWr).params = s.params := rfl

/-! ### closedWr -/

@[simp] theorem State.closedWr_cmd : (s.closedWr).cmd = s.cmd := rfl
@[simp] theorem State.closedWr_data : (s.closedWr).data = s.data := rfl
@[simp] theorem State.closedWr_rstat : (s.closedWr).rstat = s.rstat := rfl
@[simp] theorem State.closedWr_rval : (s.closedWr).rval = s.rval := rfl
@[simp] theorem State.closedWr_macroStep : (s.closedWr).macroStep = s.macroStep := rfl
@[simp] theorem State.closedWr_rd : (s.closedWr).rd = s.rd := rfl
@[simp] theorem State.closedWr_wr : (s.closedWr).wr = { st := .closed, pend := [] } := rfl
@[simp] theorem State.closedWr_freq : (s.closedWr).freq = s.freq := rfl
@[simp] theorem State.closedWr_tree : (s.closedWr).tree = s.tree := rfl
@[simp] theorem State.closedWr_code : (s.closedWr).code = s.code := rfl
@[simp] theorem State.closedWr_dec : (s.closedWr).dec = s.dec := rfl
@[simp] theorem State.closedWr_host : (s.closedWr).host = s.host := rfl
@[simp] theorem State.closedWr_params : (s.closedWr).params = s.params := rfl

/-! ### loadTree -/

@[simp] theorem State.loadTree_cmd (r : Option Tree) (k : Nat) : (s.loadTree r k).cmd = s.cmd := rfl
@[simp] theorem State.loadTree_data (r : Option Tree) (k : Nat) : (s.loadTree r k).data = s.data := rfl
@[simp] theorem State.loadTree_rstat (r : Option Tree) (k : Nat) : (s.loadTree r k).rstat = s.rstat := rfl
@[simp] theorem State.loadTree_rval (r : Option Tree) (k : Nat) : (s.loadTree r k).rval = s.rval := rfl
@[simp] theorem State.loadTree_macroStep (r : Option Tree) (k : Nat) : (s.loadTree r k).macroStep = s.macroStep := rfl
@[simp] theorem State.loadTree_rd (r : Option Tree) (k : Nat) : (s.loadTree r k).rd = s.rd := rfl
@[simp] theorem State.loadTree_wr (r : Option Tree) (k : Nat) : (s.loadTree r k).wr = s.wr := rfl
@[simp] theorem State.loadTree_freq (r : Option Tree) (k : Nat) : (s.loadTree r k).freq = s.freq := rfl
@[simp] theorem State.loadTree_tree (r : Option Tree) (k : Nat) :
    (s.loadTree r k).tree =
      { root := r, nnodes := k } := rfl
@[simp] theorem State.loadTree_code (r : Option Tree) (k : Nat) : (s.loadTree r k).code = Code.none := rfl
@[simp] theorem State.loadTree_dec (r : Option Tree) (k : Nat) :
    (s.loadTree r k).dec =
      { st := .ready, path := [] } := rfl
@[simp] theorem State.loadTree_host (r : Option Tree) (k : Nat) : (s.loadTree r k).host = s.host := rfl
@[simp] theorem State.loadTree_params (r : Option Tree) (k : Nat) : (s.loadTree r k).params = s.params := rfl

/-! ### builtTree -/

@[simp] theorem State.builtTree_cmd : (s.builtTree).cmd = s.cmd := State.loadTree_cmd s _ _
@[simp] theorem State.builtTree_data : (s.builtTree).data = s.data := State.loadTree_data s _ _
@[simp] theorem State.builtTree_rstat : (s.builtTree).rstat = s.rstat := State.loadTree_rstat s _ _
@[simp] theorem State.builtTree_rval : (s.builtTree).rval = s.rval := State.loadTree_rval s _ _
@[simp] theorem State.builtTree_macroStep : (s.builtTree).macroStep = s.macroStep := State.loadTree_macroStep s _ _
@[simp] theorem State.builtTree_rd : (s.builtTree).rd = s.rd := State.loadTree_rd s _ _
@[simp] theorem State.builtTree_wr : (s.builtTree).wr = s.wr := State.loadTree_wr s _ _
@[simp] theorem State.builtTree_freq : (s.builtTree).freq = s.freq := State.loadTree_freq s _ _
@[simp] theorem State.builtTree_tree :
    (s.builtTree).tree =
      { root := buildTree s.params.tieBreak s.freq.cnt, nnodes := (buildTree s.params.tieBreak s.freq.cnt).elim 0 Tree.nnodes } := State.loadTree_tree s _ _
@[simp] theorem State.builtTree_code : (s.builtTree).code = Code.none := State.loadTree_code s _ _
@[simp] theorem State.builtTree_dec : (s.builtTree).dec = { st := .ready, path := [] } := State.loadTree_dec s _ _
@[simp] theorem State.builtTree_host : (s.builtTree).host = s.host := State.loadTree_host s _ _
@[simp] theorem State.builtTree_params : (s.builtTree).params = s.params := State.loadTree_params s _ _

/-! ### failLoad -/

@[simp] theorem State.failLoad_cmd : (s.failLoad).cmd = s.cmd := rfl
@[simp] theorem State.failLoad_data : (s.failLoad).data = s.data := rfl
@[simp] theorem State.failLoad_rstat : (s.failLoad).rstat = s.rstat := rfl
@[simp] theorem State.failLoad_rval : (s.failLoad).rval = s.rval := rfl
@[simp] theorem State.failLoad_macroStep : (s.failLoad).macroStep = s.macroStep := rfl
@[simp] theorem State.failLoad_rd : (s.failLoad).rd = s.rd := rfl
@[simp] theorem State.failLoad_wr : (s.failLoad).wr = s.wr := rfl
@[simp] theorem State.failLoad_freq : (s.failLoad).freq = s.freq := rfl
@[simp] theorem State.failLoad_tree : (s.failLoad).tree = { root := none, nnodes := 0 } := rfl
@[simp] theorem State.failLoad_code : (s.failLoad).code = Code.none := rfl
@[simp] theorem State.failLoad_dec : (s.failLoad).dec = { st := .idle, path := [] } := rfl
@[simp] theorem State.failLoad_host : (s.failLoad).host = s.host := rfl
@[simp] theorem State.failLoad_params : (s.failLoad).params = s.params := rfl

/-! ### failDec -/

@[simp] theorem State.failDec_cmd : (s.failDec).cmd = s.cmd := rfl
@[simp] theorem State.failDec_data : (s.failDec).data = s.data := rfl
@[simp] theorem State.failDec_rstat : (s.failDec).rstat = s.rstat := rfl
@[simp] theorem State.failDec_rval : (s.failDec).rval = s.rval := rfl
@[simp] theorem State.failDec_macroStep : (s.failDec).macroStep = s.macroStep := rfl
@[simp] theorem State.failDec_rd : (s.failDec).rd = s.rd := rfl
@[simp] theorem State.failDec_wr : (s.failDec).wr = s.wr := rfl
@[simp] theorem State.failDec_freq : (s.failDec).freq = s.freq := rfl
@[simp] theorem State.failDec_tree : (s.failDec).tree = s.tree := rfl
@[simp] theorem State.failDec_code : (s.failDec).code = s.code := rfl
@[simp] theorem State.failDec_dec : (s.failDec).dec = { s.dec with st := .failed } := rfl
@[simp] theorem State.failDec_host : (s.failDec).host = s.host := rfl
@[simp] theorem State.failDec_params : (s.failDec).params = s.params := rfl

/-! ### descended -/

@[simp] theorem State.descended_cmd (b : Bool) : (s.descended b).cmd = s.cmd := rfl
@[simp] theorem State.descended_data (b : Bool) : (s.descended b).data = s.data := rfl
@[simp] theorem State.descended_rstat (b : Bool) : (s.descended b).rstat = s.rstat := rfl
@[simp] theorem State.descended_rval (b : Bool) : (s.descended b).rval = s.rval := rfl
@[simp] theorem State.descended_macroStep (b : Bool) : (s.descended b).macroStep = s.macroStep := rfl
@[simp] theorem State.descended_rd (b : Bool) : (s.descended b).rd = s.rd := rfl
@[simp] theorem State.descended_wr (b : Bool) : (s.descended b).wr = s.wr := rfl
@[simp] theorem State.descended_freq (b : Bool) : (s.descended b).freq = s.freq := rfl
@[simp] theorem State.descended_tree (b : Bool) : (s.descended b).tree = s.tree := rfl
@[simp] theorem State.descended_code (b : Bool) : (s.descended b).code = s.code := rfl
@[simp] theorem State.descended_dec (b : Bool) : (s.descended b).dec = { s.dec with path := s.dec.path ++ [b] } := rfl
@[simp] theorem State.descended_host (b : Bool) : (s.descended b).host = s.host := rfl
@[simp] theorem State.descended_params (b : Bool) : (s.descended b).params = s.params := rfl

/-! ### sourceDraw -/

@[simp] theorem sourceDraw_cmd : ((sourceDraw s).2).cmd = s.cmd := rfl
@[simp] theorem sourceDraw_data : ((sourceDraw s).2).data = s.data := rfl
@[simp] theorem sourceDraw_rstat : ((sourceDraw s).2).rstat = s.rstat := rfl
@[simp] theorem sourceDraw_rval : ((sourceDraw s).2).rval = s.rval := rfl
@[simp] theorem sourceDraw_macroStep : ((sourceDraw s).2).macroStep = s.macroStep := rfl
@[simp] theorem sourceDraw_rd : ((sourceDraw s).2).rd = s.rd := rfl
@[simp] theorem sourceDraw_wr : ((sourceDraw s).2).wr = s.wr := rfl
@[simp] theorem sourceDraw_freq : ((sourceDraw s).2).freq = s.freq := rfl
@[simp] theorem sourceDraw_tree : ((sourceDraw s).2).tree = s.tree := rfl
@[simp] theorem sourceDraw_code : ((sourceDraw s).2).code = s.code := rfl
@[simp] theorem sourceDraw_dec : ((sourceDraw s).2).dec = s.dec := rfl
@[simp] theorem sourceDraw_host : ((sourceDraw s).2).host = { s.host with srcErr := s.host.srcErr.draw.2 } := rfl
@[simp] theorem sourceDraw_params : ((sourceDraw s).2).params = s.params := rfl

/-! ### sinkDraw -/

@[simp] theorem sinkDraw_cmd : ((sinkDraw s).2).cmd = s.cmd := rfl
@[simp] theorem sinkDraw_data : ((sinkDraw s).2).data = s.data := rfl
@[simp] theorem sinkDraw_rstat : ((sinkDraw s).2).rstat = s.rstat := rfl
@[simp] theorem sinkDraw_rval : ((sinkDraw s).2).rval = s.rval := rfl
@[simp] theorem sinkDraw_macroStep : ((sinkDraw s).2).macroStep = s.macroStep := rfl
@[simp] theorem sinkDraw_rd : ((sinkDraw s).2).rd = s.rd := rfl
@[simp] theorem sinkDraw_wr : ((sinkDraw s).2).wr = s.wr := rfl
@[simp] theorem sinkDraw_freq : ((sinkDraw s).2).freq = s.freq := rfl
@[simp] theorem sinkDraw_tree : ((sinkDraw s).2).tree = s.tree := rfl
@[simp] theorem sinkDraw_code : ((sinkDraw s).2).code = s.code := rfl
@[simp] theorem sinkDraw_dec : ((sinkDraw s).2).dec = s.dec := rfl
@[simp] theorem sinkDraw_host : ((sinkDraw s).2).host = { s.host with sinkErr := s.host.sinkErr.draw.2 } := rfl
@[simp] theorem sinkDraw_params : ((sinkDraw s).2).params = s.params := rfl

/-! ### landedDraw -/

@[simp] theorem landedDraw_cmd : ((landedDraw s).2).cmd = s.cmd := rfl
@[simp] theorem landedDraw_data : ((landedDraw s).2).data = s.data := rfl
@[simp] theorem landedDraw_rstat : ((landedDraw s).2).rstat = s.rstat := rfl
@[simp] theorem landedDraw_rval : ((landedDraw s).2).rval = s.rval := rfl
@[simp] theorem landedDraw_macroStep : ((landedDraw s).2).macroStep = s.macroStep := rfl
@[simp] theorem landedDraw_rd : ((landedDraw s).2).rd = s.rd := rfl
@[simp] theorem landedDraw_wr : ((landedDraw s).2).wr = s.wr := rfl
@[simp] theorem landedDraw_freq : ((landedDraw s).2).freq = s.freq := rfl
@[simp] theorem landedDraw_tree : ((landedDraw s).2).tree = s.tree := rfl
@[simp] theorem landedDraw_code : ((landedDraw s).2).code = s.code := rfl
@[simp] theorem landedDraw_dec : ((landedDraw s).2).dec = s.dec := rfl
@[simp] theorem landedDraw_host : ((landedDraw s).2).host = { s.host with landed := s.host.landed.draw.2 } := rfl
@[simp] theorem landedDraw_params : ((landedDraw s).2).params = s.params := rfl

/-! ### sinkAccept -/

@[simp] theorem sinkAccept_cmd (b : Byte) : (sinkAccept b s).cmd = s.cmd := rfl
@[simp] theorem sinkAccept_data (b : Byte) : (sinkAccept b s).data = s.data := rfl
@[simp] theorem sinkAccept_rstat (b : Byte) : (sinkAccept b s).rstat = s.rstat := rfl
@[simp] theorem sinkAccept_rval (b : Byte) : (sinkAccept b s).rval = s.rval := rfl
@[simp] theorem sinkAccept_macroStep (b : Byte) : (sinkAccept b s).macroStep = s.macroStep := rfl
@[simp] theorem sinkAccept_rd (b : Byte) : (sinkAccept b s).rd = s.rd := rfl
@[simp] theorem sinkAccept_wr (b : Byte) : (sinkAccept b s).wr = s.wr := rfl
@[simp] theorem sinkAccept_freq (b : Byte) : (sinkAccept b s).freq = s.freq := rfl
@[simp] theorem sinkAccept_tree (b : Byte) : (sinkAccept b s).tree = s.tree := rfl
@[simp] theorem sinkAccept_code (b : Byte) : (sinkAccept b s).code = s.code := rfl
@[simp] theorem sinkAccept_dec (b : Byte) : (sinkAccept b s).dec = s.dec := rfl
@[simp] theorem sinkAccept_host (b : Byte) : (sinkAccept b s).host = { s.host with out := s.host.out ++ [b] } := rfl
@[simp] theorem sinkAccept_params (b : Byte) : (sinkAccept b s).params = s.params := rfl

/-! ### acceptCommand -/

@[simp] theorem acceptCommand_cmd (c d : Word) (r : List HostAct) : (acceptCommand c d r s).cmd = c := rfl
@[simp] theorem acceptCommand_data (c d : Word) (r : List HostAct) : (acceptCommand c d r s).data = d := rfl
@[simp] theorem acceptCommand_rstat (c d : Word) (r : List HostAct) : (acceptCommand c d r s).rstat = s.rstat := rfl
@[simp] theorem acceptCommand_rval (c d : Word) (r : List HostAct) : (acceptCommand c d r s).rval = s.rval := rfl
@[simp] theorem acceptCommand_macroStep (c d : Word) (r : List HostAct) :
    (acceptCommand c d r s).macroStep =
      s.macroStep := rfl
@[simp] theorem acceptCommand_rd (c d : Word) (r : List HostAct) : (acceptCommand c d r s).rd = s.rd := rfl
@[simp] theorem acceptCommand_wr (c d : Word) (r : List HostAct) : (acceptCommand c d r s).wr = s.wr := rfl
@[simp] theorem acceptCommand_freq (c d : Word) (r : List HostAct) : (acceptCommand c d r s).freq = s.freq := rfl
@[simp] theorem acceptCommand_tree (c d : Word) (r : List HostAct) : (acceptCommand c d r s).tree = s.tree := rfl
@[simp] theorem acceptCommand_code (c d : Word) (r : List HostAct) : (acceptCommand c d r s).code = s.code := rfl
@[simp] theorem acceptCommand_dec (c d : Word) (r : List HostAct) : (acceptCommand c d r s).dec = s.dec := rfl
@[simp] theorem acceptCommand_host (c d : Word) (r : List HostAct) :
    (acceptCommand c d r s).host =
      { s.host with plan := r } := rfl
@[simp] theorem acceptCommand_params (c d : Word) (r : List HostAct) :
    (acceptCommand c d r s).params =
      s.params := rfl

/-! ### planCommand -/

@[simp] theorem planCommand_cmd (c d : Word) : (planCommand c d s).cmd = s.cmd := rfl
@[simp] theorem planCommand_data (c d : Word) : (planCommand c d s).data = s.data := rfl
@[simp] theorem planCommand_rstat (c d : Word) : (planCommand c d s).rstat = s.rstat := rfl
@[simp] theorem planCommand_rval (c d : Word) : (planCommand c d s).rval = s.rval := rfl
@[simp] theorem planCommand_macroStep (c d : Word) : (planCommand c d s).macroStep = s.macroStep := rfl
@[simp] theorem planCommand_rd (c d : Word) : (planCommand c d s).rd = s.rd := rfl
@[simp] theorem planCommand_wr (c d : Word) : (planCommand c d s).wr = s.wr := rfl
@[simp] theorem planCommand_freq (c d : Word) : (planCommand c d s).freq = s.freq := rfl
@[simp] theorem planCommand_tree (c d : Word) : (planCommand c d s).tree = s.tree := rfl
@[simp] theorem planCommand_code (c d : Word) : (planCommand c d s).code = s.code := rfl
@[simp] theorem planCommand_dec (c d : Word) : (planCommand c d s).dec = s.dec := rfl
@[simp] theorem planCommand_host (c d : Word) :
    (planCommand c d s).host =
      { s.host with plan := .issue c d :: s.host.plan } := rfl
@[simp] theorem planCommand_params (c d : Word) : (planCommand c d s).params = s.params := rfl

/-! ### Draws and codes -/

@[simp] theorem sourceDraw_fst : (sourceDraw s).1 = s.host.srcErr.draw.1 := rfl
@[simp] theorem sinkDraw_fst : (sinkDraw s).1 = s.host.sinkErr.draw.1 := rfl
@[simp] theorem landedDraw_fst : (landedDraw s).1 = s.host.landed.draw.1 := rfl
@[simp] theorem Code.none_valid : Code.none.valid = false := rfl
@[simp] theorem Code.none_cw : Code.none.cw = CodeTable.empty := rfl

end Sys2Proof.Machine
end

