-- ==== Sys2Proof/Laws/Ops.lean ====
section
/-! SUPPORT. What each shared operation can do, said once: sequencing, draws, PreCheck, ReadBits, WriteList and the
closing of the writer. A proof about a command cites these instead of unfolding the operation. -/

namespace Sys2Proof.Machine

/-! ### Sequencing -/

@[simp] theorem Res.bind_ok {α β : Type} (a : α) (s : State) (k : α → State → Res β) : (Res.ok a s).bind k = k a s := rfl

@[simp] theorem Res.bind_raise {α β : Type} (e : Err) (s : State) (k : α → State → Res β) :
    (Res.raise e s).bind k = .raise e s := rfl

theorem Res.bind_assoc {α β γ : Type} (r : Res α) (k : α → State → Res β) (l : β → State → Res γ) :
    (r.bind k).bind l = r.bind fun a s => (k a s).bind l := by
  cases r <;> rfl

theorem Res.bind_eq_ok {α β : Type} {r : Res α} {k : α → State → Res β} {b : β} {t : State} :
    r.bind k = .ok b t ↔ ∃ a s, r = .ok a s ∧ k a s = .ok b t := by
  cases r <;> simp

theorem Res.bind_eq_raise {α β : Type} {r : Res α} {k : α → State → Res β} {e : Err} {t : State} :
    r.bind k = .raise e t ↔ r = .raise e t ∨ ∃ a s, r = .ok a s ∧ k a s = .raise e t := by
  cases r <;> simp

@[simp] theorem Res.onRaise_ok {α : Type} (a : α) (s : State) (f : State → State) :
    (Res.ok a s).onRaise f = .ok a s := rfl

@[simp] theorem Res.onRaise_raise {α : Type} (e : Err) (s : State) (f : State → State) :
    (Res.raise e s : Res α).onRaise f = .raise e (f s) := rfl

@[simp] theorem settle_ok (a : Answer) (s : State) : settle (.ok a s) = s.answer a := rfl

@[simp] theorem settle_raise (e : Err) (s : State) : settle (.raise e s) = s.answerError e := rfl

theorem finish_eq_next (r : Res Answer) : finish r = .next (settle r) := rfl

@[simp] theorem finish_next {r : Res Answer} {t : State} : finish r = .next t ↔ settle r = t := by
  simp [finish]

/-- A command that may meet an undefined subtree either answers or stops there. -/
theorem finishDefined_next {r : Res (Option Answer)} {t : State} (h : finishDefined r = .next t) :
    (∃ a s, r = .ok (some a) s ∧ t = s.answer a) ∨ (∃ e s, r = .raise e s ∧ t = s.answerError e) := by
  match r, h with
  | .ok (some a) s, h => exact .inl ⟨a, s, rfl, by simpa [finishDefined] using h.symm⟩
  | .ok none s, h => simp [finishDefined] at h
  | .raise e s, h => exact .inr ⟨e, s, rfl, by simpa [finishDefined] using h.symm⟩

/-! ### Draws -/

@[simp] theorem Draws.nth_zero (d : Draws) : d.nth 0 = d.draw.1 := by
  rcases h : d.coming with _ | ⟨b, l⟩ <;> simp [Draws.nth, Draws.draw, h]

/-- The draws left after one are the later ones. -/
@[simp] theorem Draws.nth_draw (d : Draws) (j : Nat) : d.draw.2.nth j = d.nth (j + 1) := by
  rcases h : d.coming with _ | ⟨b, l⟩ <;> simp [Draws.nth, Draws.draw, h]

theorem Draws.quiet_draw {d : Draws} (h : d.quiet) : d.draw.1 = false ∧ d.draw.2.quiet := by
  obtain ⟨ha, hc⟩ := h
  unfold Draws.draw
  split
  · exact ⟨ha, ha, hc⟩
  · next b rest heq =>
    rw [heq] at hc
    exact ⟨hc b (by simp), ha, fun c hcm => hc c (by simp [hcm])⟩

/-! ### PreCheck -/

/-- PreCheck passes exactly where every unit the command uses is OPEN, and changes nothing. -/
theorem preCheck_eq_ok {u : List StreamUnit} {s t : State} :
    preCheck u s = .ok ⟨⟩ t ↔
      t = s ∧ (StreamUnit.rd ∈ u → s.rd.st = .opened) ∧ (StreamUnit.wr ∈ u → s.wr.st = .opened) := by
  unfold preCheck
  rcases hr : s.rd.st <;> rcases hw : s.wr.st <;> by_cases h1 : StreamUnit.rd ∈ u <;>
    by_cases h2 : StreamUnit.wr ∈ u <;> simp [h1, h2, eq_comm]

/-- PreCheck raises only its four refusals, and changes nothing. -/
theorem preCheck_eq_raise {u : List StreamUnit} {s t : State} {e : Err} (h : preCheck u s = .raise e t) :
    t = s ∧ (e = .unitClosed ∨ e = .stickyRd ∨ e = .stickyWr) := by
  unfold preCheck at h
  split_ifs at h <;> simp_all

theorem preCheck_of_open {u : List StreamUnit} {s : State} (hr : StreamUnit.rd ∈ u → s.rd.st = .opened)
    (hw : StreamUnit.wr ∈ u → s.wr.st = .opened) : preCheck u s = .ok ⟨⟩ s :=
  preCheck_eq_ok.2 ⟨rfl, hr, hw⟩

/-! ### ReadBits -/

/-- R102: the three ways a ReadBits ends. -/
theorem readBits_cases (n : Nat) (s : State) :
    (s.host.srcErr.draw.1 = true ∧ readBits n s = .raise .sourceIO (sourceDraw s).2.failRd) ∨
    (s.host.srcErr.draw.1 = false ∧ 8 * s.host.src.length < s.rd.pos + n ∧
      readBits n s = .raise .endOfStream ((sourceDraw s).2.refilled n)) ∨
    (s.host.srcErr.draw.1 = false ∧ s.rd.pos + n ≤ 8 * s.host.src.length ∧
      readBits n s = .ok (val (bitsAt s.host.src s.rd.pos n)) (((sourceDraw s).2.refilled n).advanced n)) := by
  unfold readBits
  cases h : s.host.srcErr.draw.1
  · by_cases hp : 8 * s.host.src.length < s.rd.pos + n
    · simp [h, hp]
    · simp [h, hp, Nat.le_of_not_lt hp]
  · simp [h]

/-- What a ReadBits leaves alone, however it ends. -/
abbrev readFrame (s t : State) : Prop :=
  t = (s.setRd t.rd).setHost { s.host with srcErr := t.host.srcErr }

theorem readBits_ok {n v : Nat} {s t : State} (h : readBits n s = .ok v t) :
    v = val (bitsAt s.host.src s.rd.pos n) ∧ t.rd.pos = s.rd.pos + n ∧ t.rd.st = s.rd.st ∧
      s.rd.pos + n ≤ 8 * s.host.src.length ∧ t.host.srcErr = s.host.srcErr.draw.2 ∧ readFrame s t := by
  rcases readBits_cases n s with ⟨_, h'⟩ | ⟨_, _, h'⟩ | ⟨_, hp, h'⟩ <;> rw [h'] at h <;> simp at h
  obtain ⟨rfl, rfl⟩ := h
  exact ⟨rfl, rfl, rfl, hp, rfl, rfl⟩

theorem readBits_raise {n : Nat} {s t : State} {e : Err} (h : readBits n s = .raise e t) :
    t.rd.pos = s.rd.pos ∧ readFrame s t ∧
      ((e = .sourceIO ∧ t.rd.st = .failed) ∨
        (e = .endOfStream ∧ t.rd.st = s.rd.st ∧ 8 * s.host.src.length < s.rd.pos + n)) := by
  rcases readBits_cases n s with ⟨_, h'⟩ | ⟨_, hp, h'⟩ | ⟨_, _, h'⟩ <;> rw [h'] at h <;> simp at h
  · obtain ⟨rfl, rfl⟩ := h
    exact ⟨rfl, rfl, .inl ⟨rfl, rfl⟩⟩
  · obtain ⟨rfl, rfl⟩ := h
    exact ⟨rfl, rfl, .inr ⟨rfl, rfl, hp⟩⟩

/-- Under a quiet source a ReadBits inside the stream succeeds. -/
theorem readBits_quiet {n : Nat} {s : State} (hq : s.host.srcErr.quiet) (hp : s.rd.pos + n ≤ 8 * s.host.src.length) :
    readBits n s = .ok (val (bitsAt s.host.src s.rd.pos n)) (((sourceDraw s).2.refilled n).advanced n) := by
  have hd := (Draws.quiet_draw hq).1
  rcases readBits_cases n s with ⟨h, _⟩ | ⟨_, h, _⟩ | ⟨_, _, h⟩
  · rw [hd] at h; cases h
  · omega
  · exact h

/-! ### Bit lists -/

@[simp] theorem val_nil : val [] = 0 := rfl

theorem val_append_singleton (l : Bits) (b : Bool) : val (l ++ [b]) = 2 * val l + b.toNat := by
  simp [val]

@[simp] theorem bitsOf_length (n v : Nat) : (bitsOf n v).length = n := by
  induction n with
  | zero => rfl
  | succ n ih => simp [bitsOf, ih]

@[simp] theorem bitsAt_length (src : List Byte) (p n : Nat) : (bitsAt src p n).length = n := by
  induction n generalizing p with
  | zero => rfl
  | succ n ih => simp [bitsAt, ih]

theorem val_cons (b : Bool) (l : Bits) : val (b :: l) = b.toNat * 2 ^ l.length + val l := by
  suffices h : ∀ (l : Bits) (a : Nat),
      l.foldl (fun acc b => 2 * acc + b.toNat) a = a * 2 ^ l.length + val l by
    simpa [val] using h l b.toNat
  intro l
  induction l with
  | nil => simp
  | cons c l ih =>
    intro a
    have h1 := ih (2 * a + c.toNat)
    have h2 := ih c.toNat
    simp only [List.foldl_cons, List.length_cons, val, Nat.mul_zero, Nat.zero_add] at *
    rw [h1, h2, Nat.pow_succ]
    ring

theorem val_lt (l : Bits) : val l < 2 ^ l.length := by
  induction l with
  | nil => simp
  | cons b l ih =>
    rw [val_cons, List.length_cons, Nat.pow_succ]
    cases b <;> simp <;> omega

/-- R9: `val(bits_N(v)) = v mod 2^N`. -/
theorem val_bitsOf (n v : Nat) : val (bitsOf n v) = v % 2 ^ n := by
  induction n with
  | zero => simp [bitsOf, Nat.mod_one]
  | succ n ih =>
    rw [bitsOf, val_cons, ih, bitsOf_length, Nat.mod_pow_succ, Nat.testBit_eq_decide_div_mod_eq]
    rcases Nat.mod_two_eq_zero_or_one (v / 2 ^ n) with h | h <;> simp [h, Nat.add_comm]

theorem bitsOf_val (l : Bits) : bitsOf l.length (val l) = l := by
  suffices h : ∀ (l : Bits) (m : Nat), bitsOf l.length (m * 2 ^ l.length + val l) = l by
    simpa using h l 0
  intro l
  induction l with
  | nil => intro m; rfl
  | cons b l ih =>
    intro m
    have hv := val_lt l
    have e : m * 2 ^ (b :: l).length + val (b :: l) = (2 * m + b.toNat) * 2 ^ l.length + val l := by
      rw [val_cons, List.length_cons, Nat.pow_succ]; ring
    rw [e, List.length_cons, bitsOf, ih]
    congr 1
    rw [Nat.testBit_eq_decide_div_mod_eq, Nat.mul_comm, Nat.mul_add_div (Nat.two_pow_pos _), Nat.div_eq_of_lt hv]
    cases b <;> simp [Nat.add_mod]

theorem bytesBits_append (a b : List Byte) : bytesBits (a ++ b) = bytesBits a ++ bytesBits b := by
  simp [bytesBits]

/-- The bits of the byte made of eight bits are those bits (R51, R122). -/
theorem bytesBits_byteOf {l : Bits} (h : l.length = 8) : bytesBits [byteOf l] = l := by
  have hv := val_lt l
  rw [h] at hv
  simp only [bytesBits, byteOf, List.flatMap_cons, List.flatMap_nil, List.append_nil, BitVec.toNat_ofNat]
  rw [Nat.mod_eq_of_lt hv, ← h, bitsOf_val]

/-! ### WriteList -/

/-- What writing leaves alone, however it ends. -/
abbrev writeFrame (s t : State) : Prop :=
  t = (s.setWr t.wr).setHost { s.host with out := t.host.out, sinkErr := t.host.sinkErr, landed := t.host.landed }

theorem writeFrame_trans {s t u : State} (h1 : writeFrame s t) (h2 : writeFrame t u) : writeFrame s u := by
  unfold writeFrame at *
  rw [h2, h1]
  rfl

theorem sinkPut_refused {b : Byte} {s : State} (h : s.host.sinkErr.draw.1 = true) :
    (sinkPut b s).1 = true ∧ writeFrame s (sinkPut b s).2 ∧ (sinkPut b s).2.wr = s.wr ∧
      ((sinkPut b s).2.host.out = s.host.out ∨ (sinkPut b s).2.host.out = s.host.out ++ [b]) := by
  have h' : (sinkDraw s).1 = true := h
  unfold sinkPut
  rw [if_pos h']
  refine ⟨rfl, ?_⟩
  dsimp only
  split <;> exact ⟨rfl, rfl, by simp⟩

theorem sinkPut_accepted {b : Byte} {s : State} (h : s.host.sinkErr.draw.1 = false) :
    (sinkPut b s).1 = false ∧ writeFrame s (sinkPut b s).2 ∧ (sinkPut b s).2.wr = s.wr ∧
      (sinkPut b s).2.host.out = s.host.out ++ [b] ∧ (sinkPut b s).2.host.sinkErr = s.host.sinkErr.draw.2 := by
  have h' : ¬ (sinkDraw s).1 = true := by simpa using h
  unfold sinkPut
  rw [if_neg h']
  exact ⟨rfl, rfl, rfl, rfl, rfl⟩

/-- R124, R122: one bit is appended, and eight bits become a byte of `OUT`. -/
theorem writeBit_ok {b : Bool} {s t : State} (hp : s.wr.pend.length ≤ 7) (h : writeBit b s = .ok ⟨⟩ t) :
    t.written = s.written ++ [b] ∧ t.wr.pend.length ≤ 7 ∧ t.wr.st = s.wr.st ∧ s.host.out <+: t.host.out ∧
      (s.host.sinkErr.quiet → t.host.sinkErr.quiet) ∧ writeFrame s t := by
  unfold writeBit at h
  split_ifs at h with hl
  · cases hd : s.host.sinkErr.draw.1
    · have hd' : (s.setPend (s.wr.pend ++ [b])).host.sinkErr.draw.1 = false := hd
      obtain ⟨h1, h2, h3, h4, h5⟩ := sinkPut_accepted (b := byteOf (s.wr.pend ++ [b])) hd'
      simp only [emitByte, h1, Bool.false_eq_true, if_false, Res.bind_ok, Res.ok.injEq, true_and] at h
      subst h
      refine ⟨?_, by simp, by simp [h3], ?_, fun hq => ?_, ?_⟩
      · simp only [State.written, State.setPend_host, State.setPend_wr, h4, bytesBits_append,
          bytesBits_byteOf hl, List.append_nil, List.append_assoc]
      · simp [h4]
      · simpa [h5] using (Draws.quiet_draw hq).2
      · have hf : writeFrame s (sinkPut (byteOf (s.wr.pend ++ [b])) (s.setPend (s.wr.pend ++ [b]))).2 :=
          writeFrame_trans (t := s.setPend (s.wr.pend ++ [b])) rfl h2
        exact writeFrame_trans hf rfl
    · have hd' : (s.setPend (s.wr.pend ++ [b])).host.sinkErr.draw.1 = true := hd
      obtain ⟨h1, -, -, -⟩ := sinkPut_refused (b := byteOf (s.wr.pend ++ [b])) hd'
      simp [emitByte, h1] at h
  · simp only [Res.ok.injEq, true_and] at h
    subst h
    refine ⟨by simp [State.written], ?_, rfl, by simp, id, rfl⟩
    simp only [List.length_append, List.length_singleton, State.setPend_wr] at *
    omega

/-- R122: a refused byte fails the writer; whether it reached `OUT` is open (R123). -/
theorem writeBit_raise {b : Bool} {s t : State} {e : Err} (h : writeBit b s = .raise e t) :
    e = .sinkIO ∧ t.wr.st = .failed ∧ t.wr.pend = [] ∧ s.host.out <+: t.host.out ∧ writeFrame s t ∧
      s.host.sinkErr.draw.1 = true := by
  unfold writeBit at h
  split_ifs at h with hl
  · cases hd : s.host.sinkErr.draw.1
    · have hd' : (s.setPend (s.wr.pend ++ [b])).host.sinkErr.draw.1 = false := hd
      obtain ⟨h1, -, -, -⟩ := sinkPut_accepted (b := byteOf (s.wr.pend ++ [b])) hd'
      simp [emitByte, h1] at h
    · have hd' : (s.setPend (s.wr.pend ++ [b])).host.sinkErr.draw.1 = true := hd
      obtain ⟨h1, h2, -, h4⟩ := sinkPut_refused (b := byteOf (s.wr.pend ++ [b])) hd'
      simp only [emitByte, h1, if_true, Res.bind_raise, Res.raise.injEq] at h
      obtain ⟨rfl, rfl⟩ := h
      refine ⟨rfl, rfl, rfl, ?_, ?_, rfl⟩
      · rcases h4 with h4 | h4 <;> simp [h4]
      · have hf : writeFrame s (sinkPut (byteOf (s.wr.pend ++ [b])) (s.setPend (s.wr.pend ++ [b]))).2 :=
          writeFrame_trans (t := s.setPend (s.wr.pend ++ [b])) rfl h2
        exact writeFrame_trans hf rfl

/-- R124: a WriteList that ends appends its bits to the written stream. -/
theorem writeList_ok {l : Bits} {s t : State} (hp : s.wr.pend.length ≤ 7) (h : writeList l s = .ok ⟨⟩ t) :
    t.written = s.written ++ l ∧ t.wr.pend.length ≤ 7 ∧ t.wr.st = s.wr.st ∧ s.host.out <+: t.host.out ∧
      (s.host.sinkErr.quiet → t.host.sinkErr.quiet) ∧ writeFrame s t := by
  induction l generalizing s with
  | nil =>
    simp only [writeList, Res.ok.injEq, true_and] at h
    subst h
    exact ⟨by simp, hp, rfl, by simp, id, rfl⟩
  | cons b l ih =>
    obtain ⟨_, u, h1, h2⟩ := Res.bind_eq_ok.1 h
    obtain ⟨a1, a2, a3, a4, a5, a6⟩ := writeBit_ok hp h1
    obtain ⟨b1, b2, b3, b4, b5, b6⟩ := ih a2 h2
    exact ⟨by simp [b1, a1], b2, b3.trans a3, a4.trans b4, fun hq => b5 (a5 hq), writeFrame_trans a6 b6⟩

/-- R122, R124: a WriteList raises only SINK_IO, with the writer failed and the rest of the list not appended. -/
theorem writeList_raise {l : Bits} {s t : State} {e : Err} (hp : s.wr.pend.length ≤ 7)
    (h : writeList l s = .raise e t) :
    e = .sinkIO ∧ t.wr.st = .failed ∧ t.wr.pend = [] ∧ s.host.out <+: t.host.out ∧ writeFrame s t := by
  induction l generalizing s with
  | nil => simp [writeList] at h
  | cons b l ih =>
    rcases Res.bind_eq_raise.1 h with h1 | ⟨_, u, h1, h2⟩
    · obtain ⟨a1, a2, a3, a4, a5, -⟩ := writeBit_raise h1
      exact ⟨a1, a2, a3, a4, a5⟩
    · obtain ⟨-, a2, -, a4, -, a6⟩ := writeBit_ok hp h1
      obtain ⟨b1, b2, b3, b4, b5⟩ := ih a2 h2
      exact ⟨b1, b2, b3, a4.trans b4, writeFrame_trans a6 b5⟩

/-- A WriteList to a quiet sink ends. -/
theorem writeList_quiet {s : State} (l : Bits) (hp : s.wr.pend.length ≤ 7) (hq : s.host.sinkErr.quiet) :
    ∃ t, writeList l s = .ok ⟨⟩ t := by
  induction l generalizing s with
  | nil => exact ⟨s, rfl⟩
  | cons b l ih =>
    cases h1 : writeBit b s with
    | raise e u =>
      have := (writeBit_raise h1).2.2.2.2.2
      rw [(Draws.quiet_draw hq).1] at this
      cases this
    | ok _ u =>
      obtain ⟨-, a2, -, -, a5, -⟩ := writeBit_ok hp h1
      obtain ⟨t, ht⟩ := ih a2 (a5 hq)
      exact ⟨t, by simp [writeList, h1, ht]⟩

theorem writeList_append (a b : Bits) (s : State) :
    writeList (a ++ b) s = (writeList a s).bind fun _ t => writeList b t := by
  induction a generalizing s with
  | nil => rfl
  | cons x a ih =>
    simp only [List.cons_append, writeList, Res.bind_assoc]
    congr 1
    funext _ t
    exact ih t

/-- R88, R170: TREE.SER writes the pre-order bits of the tree. -/
theorem serTree_eq (t : Tree) (s : State) : serTree t s = writeList t.ser s := by
  induction t generalizing s with
  | leaf y w => rfl
  | internal w l r ihl ihr =>
    have e : (Tree.internal w l r).ser = [false] ++ (l.ser ++ r.ser) := rfl
    rw [e, writeList_append]
    simp only [serTree, writeList_append, ihl, ihr]

/-- The bits of the nodes of a tree, joined, are its pre-order bits. -/
theorem Tree.nodeBits_flatten (t : Tree) : t.nodeBits.flatten = t.ser := by
  induction t with
  | leaf y w => simp [Tree.nodeBits, Tree.ser]
  | internal w l r ihl ihr => simp [Tree.nodeBits, Tree.ser, ihl, ihr]

@[simp] theorem Tree.nodeBits_length (t : Tree) : t.nodeBits.length = t.nnodes := by
  induction t with
  | leaf y w => rfl
  | internal w l r ihl ihr => simp [Tree.nodeBits, Tree.nnodes, ihl, ihr]; omega

/-- A whole header starts with each of its heads. -/
theorem Tree.headBits_prefix (t : Tree) (k : Nat) : t.headBits k <+: t.ser := by
  refine ⟨(t.nodeBits.drop k).flatten, ?_⟩
  rw [Tree.headBits, ← List.flatten_append, List.take_append_drop, Tree.nodeBits_flatten]

/-! ### The result word -/

/-- A count that fits 32 bits is the answer itself (R82). -/
theorem countWord_of_lt {opcode n : Nat} (h : n < 2 ^ 32) : countWord opcode n = resultWord n := if_pos h

/-! ### Commands and the state they start from -/

@[simp] theorem acceptCommand_keeps (cmd data : Word) (rest : List HostAct) (s : State) :
    (acceptCommand cmd data rest s).host.src = s.host.src := rfl

/-- What a planned command does: the step is the run of that command. -/
theorem step_issue {s : State} {cmd data : Word} {rest : List HostAct} (h : s.host.plan = .issue cmd data :: rest) :
    step s = runCommand (acceptCommand cmd data rest s) := by
  simp [step, h]

end Sys2Proof.Machine
end

