-- ==== Sys2Proof/Laws/Commands.lean ====
section
/-! SUPPORT. What the shared bodies of the commands can do, said once each: closing the writer, rewinding, counting,
deriving, serializing, encoding a symbol, reading a tree, and one decoding step. COMPRESS, DECOMPRESS and the plain
commands are made of these. -/

namespace Sys2Proof.Machine

/-! ### Closing the writer (R125) -/

theorem releaseSink_cases (s : State) :
    (s.host.sinkErr.draw.1 = true ∧ releaseSink s = .raise .sinkIO (sinkDraw s).2.closedWr) ∨
    (s.host.sinkErr.draw.1 = false ∧ releaseSink s = .ok ⟨⟩ (sinkDraw s).2.closedWr) := by
  unfold releaseSink
  cases h : s.host.sinkErr.draw.1
  · exact .inr ⟨rfl, if_neg (by simpa [sinkDraw] using h)⟩
  · exact .inl ⟨rfl, if_pos h⟩

/-- What closing leaves, whether or not it raises: the writer CLOSED, and in `OUT` at most the padded last byte. -/
abbrev closedAfter (s t : State) : Prop :=
  t.wr = { st := .closed, pend := [] } ∧ writeFrame s t ∧
    (t.host.out = s.host.out ∨ s.wr.pend ≠ [] ∧ t.host.out = s.host.out ++ [lastByte s.wr.pend])

theorem releaseSink_after {s t : State} :
    (releaseSink s = .ok ⟨⟩ t → t = (sinkDraw s).2.closedWr) ∧
      (∀ e, releaseSink s = .raise e t → e = .sinkIO ∧ t = (sinkDraw s).2.closedWr) := by
  rcases releaseSink_cases s with ⟨_, h⟩ | ⟨_, h⟩ <;> rw [h] <;> simp +contextual [eq_comm]

/-- R125: a close that answers OK has delivered the padded byte, if bits were pending. -/
theorem closeOpenWriter_ok {s t : State} (h : closeOpenWriter s = .ok ⟨⟩ t) :
    closedAfter s t ∧
      t.host.out = s.host.out ++ (if s.wr.pend = [] then [] else [lastByte s.wr.pend]) := by
  unfold closeOpenWriter at h
  by_cases hp : s.wr.pend = []
  · rw [if_pos hp] at h
    rw [releaseSink_after.1 h]
    exact ⟨⟨rfl, rfl, .inl rfl⟩, by simp [hp, sinkDraw, State.closedWr]⟩
  · rw [if_neg hp] at h
    cases hd : s.host.sinkErr.draw.1
    · obtain ⟨h1, h2, h3, h4, h5⟩ := sinkPut_accepted (b := lastByte s.wr.pend) hd
      rw [h1] at h
      rw [releaseSink_after.1 h]
      have ho : (sinkDraw (sinkPut (lastByte s.wr.pend) s).2).2.closedWr.host.out =
          s.host.out ++ [lastByte s.wr.pend] := by simpa [sinkDraw, State.closedWr] using h4
      exact ⟨⟨rfl, writeFrame_trans h2 rfl, .inr ⟨hp, ho⟩⟩, by rw [ho, if_neg hp]⟩
    · obtain ⟨h1, -, -, -⟩ := sinkPut_refused (b := lastByte s.wr.pend) hd
      rw [h1] at h
      simp at h

/-- R125: a close that raises raises SINK_IO, and the writer is CLOSED all the same. -/
theorem closeOpenWriter_raise {s t : State} {e : Err} (h : closeOpenWriter s = .raise e t) :
    e = .sinkIO ∧ closedAfter s t := by
  unfold closeOpenWriter at h
  by_cases hp : s.wr.pend = []
  · rw [if_pos hp] at h
    obtain ⟨rfl, rfl⟩ := releaseSink_after.2 e h
    exact ⟨rfl, rfl, rfl, .inl rfl⟩
  · rw [if_neg hp] at h
    cases hd : s.host.sinkErr.draw.1
    · obtain ⟨h1, h2, h3, h4, h5⟩ := sinkPut_accepted (b := lastByte s.wr.pend) hd
      rw [h1] at h
      obtain ⟨rfl, rfl⟩ := releaseSink_after.2 e h
      refine ⟨rfl, rfl, writeFrame_trans h2 rfl, .inr ⟨hp, ?_⟩⟩
      simpa [sinkDraw, State.closedWr] using h4
    · obtain ⟨h1, h2, h3, h4⟩ := sinkPut_refused (b := lastByte s.wr.pend) hd
      rw [h1] at h
      simp only [if_true, Res.raise.injEq] at h
      obtain ⟨rfl, rfl⟩ := h
      refine ⟨rfl, rfl, writeFrame_trans h2 rfl, ?_⟩
      simpa [sinkDraw, State.closedWr, hp] using h4

/-- A close over a quiet sink ends. -/
theorem closeOpenWriter_quiet {s : State} (hq : s.host.sinkErr.quiet) :
    ∃ t, closeOpenWriter s = .ok ⟨⟩ t := by
  have hd := Draws.quiet_draw hq
  unfold closeOpenWriter
  split_ifs with hp h1
  · rcases releaseSink_cases s with ⟨h, _⟩ | ⟨_, h⟩
    · rw [hd.1] at h; cases h
    · exact ⟨_, h⟩
  · rw [(sinkPut_accepted (b := lastByte s.wr.pend) hd.1).1] at h1; cases h1
  · have h5 := (sinkPut_accepted (b := lastByte s.wr.pend) hd.1).2.2.2.2
    rcases releaseSink_cases (sinkPut (lastByte s.wr.pend) s).2 with ⟨h, _⟩ | ⟨_, h⟩
    · rw [h5, (Draws.quiet_draw hd.2).1] at h; cases h
    · exact ⟨_, h⟩

/-! ### Rewinding (R104) -/

theorem rewindBody_cases (s : State) :
    (∃ t, rewindBody s = .ok ⟨⟩ t ∧ t.rd = { s.rd with pos := 0, buf := ReadBuffer.empty } ∧ readFrame s t ∧
      t.host.srcErr = s.host.srcErr.draw.2.draw.2 ∧
      s.host.srcErr.draw.1 = false ∧ s.host.srcErr.draw.2.draw.1 = false) ∨
    (∃ t, rewindBody s = .raise .sourceIO t ∧ t.rd = { s.rd with st := .failed } ∧ readFrame s t ∧
      (s.host.srcErr.draw.1 = true ∨ s.host.srcErr.draw.2.draw.1 = true)) := by
  unfold rewindBody
  cases h1 : s.host.srcErr.draw.1
  · have h1' : (sourceDraw s).1 = false := h1
    cases h2 : s.host.srcErr.draw.2.draw.1
    · have h2' : (sourceDraw (sourceDraw s).2).1 = false := h2
      exact .inl ⟨_, by rw [h1', h2']; rfl, rfl, rfl, rfl, rfl, rfl⟩
    · have h2' : (sourceDraw (sourceDraw s).2).1 = true := h2
      exact .inr ⟨_, by rw [h1', h2']; rfl, rfl, rfl, .inr rfl⟩
  · have h1' : (sourceDraw s).1 = true := h1
    exact .inr ⟨_, by rw [h1']; rfl, rfl, rfl, .inl rfl⟩

/-! ### Counting (R140) -/

/-- What counting leaves alone. -/
abbrev countFrame (s t : State) : Prop :=
  t = ((s.setRd t.rd).setFreq t.freq).setHost { s.host with srcErr := t.host.srcErr }

theorem countFrame_trans {s t u : State} (h1 : countFrame s t) (h2 : countFrame t u) : countFrame s u := by
  unfold countFrame at *
  rw [h2, h1]
  rfl

theorem countFrame_of_readFrame {s t : State} (h : readFrame s t) : countFrame s t := by
  unfold countFrame readFrame at *
  rw [h]
  rfl

/-- The counting loop ends OK with the reader as it was, or raises a source fault or CAPACITY. -/
theorem countLoop_ok {fuel : Nat} {s t : State} (h : countLoop fuel s = .ok ⟨⟩ t) :
    countFrame s t ∧ t.rd.st = s.rd.st := by
  induction fuel generalizing s with
  | zero =>
    simp only [countLoop, Res.ok.injEq, true_and] at h
    subst h
    exact ⟨rfl, rfl⟩
  | succ n ih =>
    unfold countLoop at h
    split at h
    · next v u hu =>
      obtain ⟨-, -, hst, -, -, hf⟩ := readBits_ok hu
      split at h
      · cases h
      · obtain ⟨h1, h2⟩ := ih h
        exact ⟨countFrame_trans (countFrame_trans (countFrame_of_readFrame hf) rfl) h1, h2.trans hst⟩
    · next u hu =>
      cases h
      obtain ⟨-, hf, h' | h'⟩ := readBits_raise hu
      · cases h'.1
      · exact ⟨countFrame_of_readFrame hf, h'.2.1⟩
    · cases h

theorem countLoop_raise {fuel : Nat} {s t : State} {e : Err} (h : countLoop fuel s = .raise e t) :
    countFrame s t ∧ ((e = .sourceIO ∧ t.rd.st = .failed) ∨
      (e = .capacity ∧ t.rd.st = s.rd.st ∧ t.freq.total = maxChunks t.params)) := by
  induction fuel generalizing s with
  | zero => simp [countLoop] at h
  | succ n ih =>
    unfold countLoop at h
    split at h
    · next v u hu =>
      obtain ⟨-, -, hst, -, -, hf⟩ := readBits_ok hu
      split at h
      · next hm =>
        cases h
        exact ⟨countFrame_of_readFrame hf, .inr ⟨rfl, hst, hm⟩⟩
      · obtain ⟨h1, h2⟩ := ih h
        refine ⟨countFrame_trans (countFrame_trans (countFrame_of_readFrame hf) rfl) h1, ?_⟩
        simpa [hst] using h2
    · cases h
    · next e' u hne hu =>
      cases h
      obtain ⟨-, hf, h' | h'⟩ := readBits_raise hu
      · exact ⟨countFrame_of_readFrame hf, .inl h'⟩
      · exact absurd h'.1 hne

/-! ### Deriving and serializing (R150, R170) -/

theorem deriveBody_none {s : State} (h : s.tree.root = none) : deriveBody s = .raise .noTree s := by
  simp [deriveBody, h]

theorem deriveBody_some {s : State} {u : Tree} (h : s.tree.root = some u) :
    deriveBody s = .ok ⟨⟩ (s.setCode { valid := true, cw := u.codes }) := by
  simp [deriveBody, h]

theorem serBody_none {s : State} (h : s.tree.root = none) : serBody s = .raise .noTree s := by
  simp [serBody, h]

theorem serBody_some {s : State} {u : Tree} (h : s.tree.root = some u) :
    serBody s = (writeList u.ser s).bind fun _ t => .ok (10 * u.leaves + u.internals) t := by
  simp [serBody, h, serTree_eq]

/-! ### Encoding a symbol (R191) -/

theorem encodeSymbol_none {s : State} {y : Nat} (h : s.code.cw.lookup y = none) :
    encodeSymbol y s = .raise .noCodeword s := by
  unfold encodeSymbol
  rw [h]

theorem encodeSymbol_some {s : State} {y : Nat} {w : Bits} (h : s.code.cw.lookup y = some w) :
    encodeSymbol y s = (writeList w s).bind fun _ t => .ok w.length t := by
  unfold encodeSymbol
  rw [h]

/-! ### Reading a tree (R172) -/

theorem readFrame_trans {s t u : State} (h1 : readFrame s t) (h2 : readFrame t u) : readFrame s u := by
  unfold readFrame at *
  rw [h2, h1]
  rfl

/-- `Des()` reads only the source, and counts the nodes of the tree it answers. -/
theorem desTree_ok {fuel k : Nat} {s t : State} {x : Tree × Nat} (h : desTree fuel k s = .ok x t) :
    readFrame s t ∧ t.rd.st = s.rd.st ∧ s.rd.pos ≤ t.rd.pos ∧ x.2 = k + x.1.nnodes ∧ x.1.weightless = x.1 := by
  induction fuel generalizing k s t x with
  | zero => simp [desTree] at h
  | succ n ih =>
    unfold desTree at h
    split at h
    · cases h
    · obtain ⟨m, u, hm, h⟩ := Res.bind_eq_ok.1 h
      obtain ⟨-, mp, ms, -, -, mf⟩ := readBits_ok hm
      split at h
      · obtain ⟨l, v, hl, h⟩ := Res.bind_eq_ok.1 h
        obtain ⟨r, w, hr, h⟩ := Res.bind_eq_ok.1 h
        cases h
        obtain ⟨lf, ls, lp, lc, lw⟩ := ih hl
        obtain ⟨rf, rs, rp, rc, rw'⟩ := ih hr
        refine ⟨readFrame_trans mf (readFrame_trans lf rf), by rw [rs, ls, ms], by omega, ?_, ?_⟩
        · simp only [Tree.nnodes]; omega
        · simp only [Tree.weightless, lw, rw']
      · obtain ⟨y, v, hy, h⟩ := Res.bind_eq_ok.1 h
        obtain ⟨-, yp, ys, -, -, yf⟩ := readBits_ok hy
        split at h
        · cases h
          exact ⟨readFrame_trans mf yf, by rw [ys, ms], by omega, rfl, rfl⟩
        · cases h

/-- The errors of `Des()`; only a source fault changes the reader's state. -/
theorem desTree_raise {fuel k : Nat} {s t : State} {e : Err} (h : desTree fuel k s = .raise e t) :
    readFrame s t ∧ ((e = .sourceIO ∧ t.rd.st = .failed) ∨
      (e ∈ [Err.endOfStream, Err.nodeCap, Err.symbolRange] ∧ t.rd.st = s.rd.st)) := by
  have hread : ∀ {n : Nat} {s t : State} {e : Err}, readBits n s = .raise e t → readFrame s t ∧
      ((e = .sourceIO ∧ t.rd.st = .failed) ∨
        (e ∈ [Err.endOfStream, Err.nodeCap, Err.symbolRange] ∧ t.rd.st = s.rd.st)) := by
    intro n s t e hr
    obtain ⟨-, hf, h' | h'⟩ := readBits_raise hr
    · exact ⟨hf, .inl h'⟩
    · exact ⟨hf, .inr ⟨by simp [h'.1], h'.2.1⟩⟩
  induction fuel generalizing k s t e with
  | zero =>
    simp only [desTree, Res.raise.injEq] at h
    obtain ⟨rfl, rfl⟩ := h
    exact ⟨rfl, .inr ⟨by simp, rfl⟩⟩
  | succ n ih =>
    unfold desTree at h
    split at h
    · cases h
      exact ⟨rfl, .inr ⟨by simp, rfl⟩⟩
    · rcases Res.bind_eq_raise.1 h with h | ⟨m, u, hm, h⟩
      · exact hread h
      · obtain ⟨-, -, ms, -, -, mf⟩ := readBits_ok hm
        split at h
        · rcases Res.bind_eq_raise.1 h with h | ⟨l, v, hl, h⟩
          · obtain ⟨hf, h'⟩ := ih h
            exact ⟨readFrame_trans mf hf, by rwa [ms] at h'⟩
          · obtain ⟨lf, ls, -, -, -⟩ := desTree_ok hl
            rcases Res.bind_eq_raise.1 h with h | ⟨r, w, hr, h⟩
            · obtain ⟨hf, h'⟩ := ih h
              exact ⟨readFrame_trans mf (readFrame_trans lf hf), by rwa [ls, ms] at h'⟩
            · cases h
        · rcases Res.bind_eq_raise.1 h with h | ⟨y, v, hy, h⟩
          · obtain ⟨hf, h'⟩ := hread h
            exact ⟨readFrame_trans mf hf, by rwa [ms] at h'⟩
          · obtain ⟨-, -, ys, -, -, yf⟩ := readBits_ok hy
            split at h
            · cases h
            · cases h
              exact ⟨readFrame_trans mf yf, .inr ⟨by simp, by rw [ys, ms]⟩⟩

/-- R172: TREE.DESER's body loads the tree it read, or empties the store. -/
theorem deserBody_cases (s : State) :
    (∃ x t, desTree (s.params.nodeCap + 1) 0 s = .ok x t ∧
      deserBody s = .ok (t.rd.pos - s.rd.pos) (t.loadTree (some x.1) x.2)) ∨
    (∃ e t, desTree (s.params.nodeCap + 1) 0 s = .raise e t ∧ deserBody s = .raise e t.failLoad) := by
  unfold deserBody
  cases h : desTree (s.params.nodeCap + 1) 0 s with
  | ok x t => exact .inl ⟨x, t, rfl, rfl⟩
  | raise e t => exact .inr ⟨e, t, rfl, rfl⟩

/-! ### One decoding step (R210) -/

theorem decBody_none {s : State} (h : s.tree.root = none) : decBody s = .raise .noTree s := by
  simp [decBody, h]

theorem decBody_notReady {s : State} {root : Tree} (h : s.tree.root = some root) (hd : s.dec.st ≠ .ready) :
    decBody s = .raise .decoderNotReady s := by
  simp [decBody, h, hd]

theorem decBody_leafRoot {s : State} {root : Tree} (h : s.tree.root = some root) (hd : s.dec.st = .ready)
    (hl : root.isLeaf = true) : decBody s = .raise .leafRoot s.failDec := by
  simp [decBody, h, hd, hl]

/-- The step past its three refusals: one bit, the child it selects, and what is there. -/
theorem decBody_ready {s : State} {root : Tree} (h : s.tree.root = some root) (hd : s.dec.st = .ready)
    (hl : root.isLeaf = false) :
    decBody s = ((readBits 1 s).onRaise State.failDec).bind fun b t =>
      match root.subtree (t.descended (b != 0)).dec.path with
      | none => .ok none (t.descended (b != 0))
      | some u => (reachNode u (t.descended (b != 0))).bind fun e v => .ok (some e) v := by
  unfold decBody
  rw [h]
  dsimp only
  rw [if_neg (not_not.2 hd), hl]
  rfl

/-- R10: descending is one step of `subtree` at a time. -/
theorem Tree.subtree_append (t : Tree) (p q : Bits) : t.subtree (p ++ q) = (t.subtree p).bind fun u => u.subtree q := by
  induction p generalizing t with
  | nil => simp [Tree.subtree]
  | cons b p ih => cases t <;> cases b <;> simp [Tree.subtree, ih]

end Sys2Proof.Machine
end

