-- ==== Sys2Proof/Laws/PerInstr.lean ====
section
/-! SUPPORT. A statement about every command as syntax: its command word carries the fixed bits of its row of
spec/opcode_table.json, and its operands stand in the row's fields (R71, R73, R86). One lemma per constructor. -/

namespace Sys2Proof.Laws.TableMatch

/-- The command word of a well-formed command agrees with its table row under the row's mask, and the fields of R71
hold its operands. -/
def Statement (i : Instr) : Prop :=
  i.WellFormed = true →
    commandWord i &&& i.tableMask = i.tableMatch ∧ nField (commandWord i) = i.widthOperand ∧
      symField (commandWord i) = i.symbolOperand

theorem widths (op : Nat) (h : op ∈ [0x01, 0x11]) :
    ∀ n < 64,
      (BitVec.ofNat 32 op ||| (BitVec.ofNat 32 n <<< 8) ||| (BitVec.ofNat 32 0 <<< 16)) &&& (0xFFFFC0FF : Word) =
        BitVec.ofNat 32 op ∧
      nField (BitVec.ofNat 32 op ||| (BitVec.ofNat 32 n <<< 8) ||| (BitVec.ofNat 32 0 <<< 16)) = n ∧
      symField (BitVec.ofNat 32 op ||| (BitVec.ofNat 32 n <<< 8) ||| (BitVec.ofNat 32 0 <<< 16)) = 0 := by
  simp only [List.mem_cons, List.not_mem_nil, or_false] at h
  rcases h with rfl | rfl <;> decide +kernel

theorem symbols :
    ∀ y < 512,
      (BitVec.ofNat 32 0x41 ||| (BitVec.ofNat 32 0 <<< 8) ||| (BitVec.ofNat 32 y <<< 16)) &&& (0xFE00FFFF : Word) =
        BitVec.ofNat 32 0x41 ∧
      nField (BitVec.ofNat 32 0x41 ||| (BitVec.ofNat 32 0 <<< 8) ||| (BitVec.ofNat 32 y <<< 16)) = 0 ∧
      symField (BitVec.ofNat 32 0x41 ||| (BitVec.ofNat 32 0 <<< 8) ||| (BitVec.ofNat 32 y <<< 16)) = y := by
  decide +kernel

theorem rdRead (n : Nat) : Statement (.rdRead n) := fun h =>
  widths 0x01 (by decide) n (by simpa [Instr.WellFormed, Instr.widthFits, Instr.symbolFits] using h)

theorem wrWrite (n : Nat) (value : Word) : Statement (.wrWrite n value) := fun h =>
  widths 0x11 (by decide) n (by simpa [Instr.WellFormed, Instr.widthFits, Instr.symbolFits] using h)

theorem encSym (sym : Nat) : Statement (.encSym sym) := fun h =>
  symbols sym (by simpa [Instr.WellFormed, Instr.widthFits, Instr.symbolFits] using h)

theorem rdReset : Statement .rdReset := fun _ => by decide
theorem rdClose : Statement .rdClose := fun _ => by decide
theorem wrClose : Statement .wrClose := fun _ => by decide
theorem freqCount : Statement .freqCount := fun _ => by decide
theorem treeBuild : Statement .treeBuild := fun _ => by decide
theorem codeDerive : Statement .codeDerive := fun _ => by decide
theorem treeSer : Statement .treeSer := fun _ => by decide
theorem treeDeser : Statement .treeDeser := fun _ => by decide
theorem compress : Statement .compress := fun _ => by decide
theorem decStep : Statement .decStep := fun _ => by decide
theorem decompress : Statement .decompress := fun _ => by decide

end Sys2Proof.Laws.TableMatch
end

