-- ==== Sys2Proof/Tests/Slice0.lean ====
section
/-! SUPPORT. Small tests, each on one step, with expected results from spec/95_test_vectors.md (named V-…) or worked out
from the encoding tables of spec/30_encoding.md; then, for each statement with hypotheses, states and operands that meet
them, one set per clause, at the ends of its ranges. -/

namespace Sys2Proof.Tests

open Sys2Proof Sys2Proof.Machine

/-! ### Small states -/

/-- The parameters of the vectors: MAGIC = 0x48554646. -/
def par : Params := { magic := 0x48554646, cntW := 32, nodeCap := 513, tieBreak := .tbSeq }

/-- The reset state with a source, as every vector starts. -/
def start (src : List Byte) : State :=
  { State.reset with params := par, host := { State.reset.host with src := src } }

/-- The start state with the cursor at bit `p` and an empty buffer. -/
def startAt (src : List Byte) (p : Nat) : State := (start src).setRd { st := .opened, pos := p, buf := ReadBuffer.empty }

/-- The same state with the reader in another state. -/
def withRd (u : UnitState) (s : State) : State := s.setRd { s.rd with st := u }

/-- The same state with a writer. -/
def withWr (u : UnitState) (pend : Bits) (s : State) : State := s.setWr { st := u, pend := pend }

/-- The same state with a tree loaded and the decoder READY at a path. -/
def withTree (t : Tree) (path : Bits) (s : State) : State :=
  (s.setTree { root := some t, nnodes := t.nnodes }).setDec { st := .ready, path := path }

/-- The same state with source draws to come. -/
def withSrcErr (l : List Bool) (s : State) : State := s.setHost { s.host with srcErr := { coming := l, after := false } }

/-- The same state with sink draws to come. -/
def withSinkErr (l : List Bool) (s : State) : State := s.setHost { s.host with sinkErr := { coming := l, after := false } }

/-- The same state with the host's next act. -/
def withPlan (a : HostAct) (s : State) : State := s.setHost { s.host with plan := [a] }

/-- The answer of a step: RSTAT and RVAL; none where it gives no next state. -/
def answerOf (o : Host.Outcome State Fault Refusal) : Option (Word × Word) :=
  match o with
  | .next t => some (t.rstat, t.rval)
  | .fault _ => none
  | .refused _ => none

/-- Something about the next state; none where there is none. -/
def viewOf {α : Type} (f : State → α) (o : Host.Outcome State Fault Refusal) : Option α :=
  match o with
  | .next t => some (f t)
  | .fault _ => none
  | .refused _ => none

/-- V-F1's tree: `Internal(4, Leaf(0x41,2), Internal(2, Leaf(0x42,1), L256))`. -/
def aabTree : Tree := .internal 4 (.leaf 0x41 2) (.internal 2 (.leaf 0x42 1) (.leaf sentinel 1))

/-- V-T1's tree: `Internal(0, Leaf(0x41,0), L256)`. -/
def pairTree : Tree := .internal 0 (.leaf 0x41 0) (.leaf sentinel 0)

/-- V-E2's stream. -/
def pairStream : List Byte := [0x48, 0x55, 0x46, 0x46, 0x48, 0x38, 0x02]

/-- The code table of V-F1's tree. -/
def withCodes (t : Tree) (s : State) : State := s.setCode { valid := true, cw := t.codes }

/-! ### WellFormed (R71, R75, R76) -/

theorem test_wf_read_width : Instr.WellFormed (.rdRead 63) = true ∧ Instr.WellFormed (.rdRead 64) = false := by decide
theorem test_wf_write_width :
    Instr.WellFormed (.wrWrite 63 0) = true ∧ Instr.WellFormed (.wrWrite 64 0) = false := by decide
theorem test_wf_symbol : Instr.WellFormed (.encSym 511) = true ∧ Instr.WellFormed (.encSym 512) = false := by decide

/-! ### Decoding: words written field by field, bits 31:25, 24:16, 15:14, 13:8, 7:0 (R71, R73) -/

theorem test_decode_rd_read : decode (0#7 ++ 0#9 ++ 0#2 ++ 32#6 ++ 0x01#8) 0 = .ok (.rdRead 32) := by decide
theorem test_decode_rd_reset : decode (0#7 ++ 0#9 ++ 0#2 ++ 0#6 ++ 0x02#8) 0 = .ok .rdReset := by decide
theorem test_decode_rd_close : decode (0#7 ++ 0#9 ++ 0#2 ++ 0#6 ++ 0x03#8) 0 = .ok .rdClose := by decide
theorem test_decode_wr_write :
    decode (0#7 ++ 0#9 ++ 0#2 ++ 63#6 ++ 0x11#8) 0xDEADBEEF = .ok (.wrWrite 63 0xDEADBEEF) := by decide
theorem test_decode_wr_close : decode (0#7 ++ 0#9 ++ 0#2 ++ 0#6 ++ 0x12#8) 0 = .ok .wrClose := by decide
theorem test_decode_freq_count : decode (0#7 ++ 0#9 ++ 0#2 ++ 0#6 ++ 0x21#8) 0 = .ok .freqCount := by decide
theorem test_decode_tree_build : decode (0#7 ++ 0#9 ++ 0#2 ++ 0#6 ++ 0x22#8) 0 = .ok .treeBuild := by decide
theorem test_decode_code_derive : decode (0#7 ++ 0#9 ++ 0#2 ++ 0#6 ++ 0x23#8) 0 = .ok .codeDerive := by decide
theorem test_decode_tree_ser : decode (0#7 ++ 0#9 ++ 0#2 ++ 0#6 ++ 0x31#8) 0 = .ok .treeSer := by decide
theorem test_decode_tree_deser : decode (0#7 ++ 0#9 ++ 0#2 ++ 0#6 ++ 0x32#8) 0 = .ok .treeDeser := by decide
theorem test_decode_enc_sym : decode (0#7 ++ 0x1FF#9 ++ 0#2 ++ 0#6 ++ 0x41#8) 0 = .ok (.encSym 0x1FF) := by decide
theorem test_decode_compress : decode (0#7 ++ 0#9 ++ 0#2 ++ 0#6 ++ 0x42#8) 0 = .ok .compress := by decide
theorem test_decode_dec_step : decode (0#7 ++ 0#9 ++ 0#2 ++ 0#6 ++ 0x51#8) 0 = .ok .decStep := by decide
theorem test_decode_decompress : decode (0#7 ++ 0#9 ++ 0#2 ++ 0#6 ++ 0x52#8) 0 = .ok .decompress := by decide

/-- V-R9: the reserved encodings. -/
theorem test_decode_reserved :
    [0x00000000, 0x000000FF, 0x00000004, 0x00004801, 0x02000801, 0x00000102, 0x00010801].map
        (fun w => (answerOf (step (withPlan (.issue w 0) (start [])))).map Prod.fst) =
      [some 0x15, some 0x15, some 0x15, some 0x25, some 0x25, some 0x25, some 0x25] := by decide +kernel

/-- Each row of the table, its operands 0, as the first command after reset: the answers of spec/10_state.md R40 and the
commands' own rules. RD.READ 0 and WR.WRITE 0 are INVALID_ARGUMENT. -/
theorem test_first_command :
    [0x01, 0x02, 0x03, 0x11, 0x12, 0x21, 0x22, 0x23, 0x31, 0x32, 0x41, 0x42, 0x51, 0x52].map
        (fun w => (answerOf (step (State.reset.withFetchWord 32 w))).map Prod.fst) =
      [some 2, some 0, some 0, some 2, some 0, some 0, some 0, some 0x55, some 0x55, some 1, some 0x65, some 0, some 0x55,
        some 0x13] := by decide +kernel

/-! ### The reader -/

/-- V-R2: a 32-bit read at bit 7 spans five bytes; V-R5: a read past the end keeps the cursor. -/
theorem test_read :
    viewOf (fun t => (t.rstat, t.rval, t.rd.pos)) (exec (.rdRead 32) (startAt [0xDE, 0xAD, 0xBE, 0xEF, 0x01, 0x80] 7)) =
      some (0, 0x56DF7780, 39) ∧
    viewOf (fun t => (t.rstat, t.rval, t.rd.pos)) (exec (.rdRead 16) (startAt [0xA5, 0x0F] 3)) = some (1, 0, 3) := by
  decide +kernel

/-- V-R4: rewinding. -/
theorem test_rewind :
    viewOf (fun t => (t.rstat, t.rd)) (exec .rdReset (startAt [0xCA, 0xFE, 0xBA, 0xBE] 32)) =
      some (0, { st := .opened, pos := 0, buf := ReadBuffer.empty }) := by decide +kernel

/-- V-R10: a source fault fails the reader, and its close still reports the failure. -/
theorem test_read_fault :
    viewOf (fun t => (t.rstat, t.rd.st)) (exec (.rdRead 8) (withSrcErr [true] (startAt [0xDE, 0xAD] 8))) =
      some (0x14, .failed) ∧
    viewOf (fun t => (t.rstat, t.rd.st)) (exec .rdClose (withRd .failed (start [0xDE]))) = some (0x34, .closed) := by
  decide +kernel

/-- V-R8: closing twice. -/
theorem test_close_twice :
    viewOf (fun t => (t.rstat, t.rd.st)) (exec .rdClose (start [])) = some (0, .closed) ∧
    viewOf (fun t => (t.rstat, t.rd.st)) (exec .rdClose (withRd .closed (start []))) = some (0x35, .closed) := by
  decide +kernel

/-! ### The writer -/

/-- V-W5: a 32-bit write behind five pending bits. -/
theorem test_write_unaligned :
    viewOf (fun t => (t.rstat, t.host.out, t.wr.pend))
        (exec (.wrWrite 32 0x12345678) (withWr .opened [true, false, true, false, true] (start []))) =
      some (0, [0xA8, 0x91, 0xA2, 0xB3], [true, true, false, false, false]) := by decide +kernel

/-- V-W9: the sink refuses the third byte, and it does not land. -/
theorem test_write_fault :
    viewOf (fun t => (t.rstat, t.host.out, t.wr))
        (exec (.wrWrite 32 0xDEADBEEF) (withSinkErr [false, false, true] (start []))) =
      some (0x24, [0xDE, 0xAD], { st := .failed, pend := [] }) := by decide +kernel

/-- V-W3: a single bit is padded to 80; and V-W9: closing a failed writer. -/
theorem test_close_pads :
    viewOf (fun t => (t.rstat, t.host.out, t.wr.st)) (exec .wrClose (withWr .opened [true] (start []))) =
      some (0, [0x80], .closed) ∧
    viewOf (fun t => (t.rstat, t.host.out, t.wr.st)) (exec .wrClose (withWr .failed [] (start []))) =
      some (0x44, [], .closed) := by decide +kernel

/-! ### Counting, building, deriving -/

/-- V-F2: counting from bit 4 counts the one whole chunk 0x14. -/
theorem test_count_unaligned :
    viewOf (fun t => (t.rval, t.rd.pos, t.freq.cnt.getD 0x14 0)) (exec .freqCount (startAt [0x41, 0x42] 4)) =
      some (1, 12, 1) := by decide +kernel

/-- V-F5: the chunk past MAX_CHUNKS is read and not counted. -/
theorem test_count_capacity :
    viewOf (fun t => (t.rstat, t.rd.pos, t.freq.total))
        (exec .freqCount { start [0x41, 0x42, 0x43] with params := { par with cntW := 2 } }) =
      some (6, 24, 2) := by decide +kernel

/-- V-F1: the tree of "AAB". -/
theorem test_build_aab :
    viewOf (fun t => (t.tree.root, t.dec.st)) (exec .treeBuild ((start []).setFreq (tally [0x41, 0x41, 0x42]))) =
      some (some aabTree, .ready) := by decide +kernel

/-- V-F3: building before counting gives the padding leaf. -/
theorem test_build_empty :
    viewOf (fun t => t.tree) (exec .treeBuild (start [])) =
      some { root := some (.internal 1 (.leaf 0 0) (.leaf sentinel 1)), nnodes := 3 } := by decide +kernel

/-- V-F1: its codes; and V-F3: no tree. -/
theorem test_derive :
    viewOf (fun t => (t.code.cw.lookup 0x41, t.code.cw.lookup 0x42, t.code.cw.lookup 256, t.code.cw.lookup 0))
        (exec .codeDerive (withTree aabTree [] (start []))) =
      some (some [false], some [true, false], some [true, true], none) ∧
    answerOf (exec .codeDerive (start [])) = some (0x55, 0) := by decide +kernel

/-! ### The tree codec -/

/-- V-T1: TREE.SER writes 21 bits. -/
theorem test_ser :
    viewOf (fun t => (t.rval, t.host.out, t.wr.pend)) (exec .treeSer (withTree pairTree [] (start []))) =
      some (21, [0x48, 0x38], List.replicate 5 false) := by decide +kernel

/-- V-T1: TREE.DESER reads them back. -/
theorem test_deser :
    viewOf (fun t => (t.rval, t.rd.pos, t.tree.root, t.dec.st)) (exec .treeDeser (startAt pairStream 32)) =
      some (21, 53, some pairTree, .ready) := by decide +kernel

/-- V-T3: a leaf symbol of 511 empties the store. -/
theorem test_deser_symbol :
    viewOf (fun t => (t.rstat, t.rd.pos, t.tree.root, t.dec.st))
        (exec .treeDeser (withTree pairTree [] (startAt [0x48, 0x55, 0x46, 0x46, 0x7F, 0xF8, 0x04] 32))) =
      some (0x33, 43, none, .idle) := by decide +kernel

/-! ### The encoder -/

/-- V-E1: a codeword of two bits behind one pending bit. -/
theorem test_enc_sym :
    viewOf (fun t => (t.rstat, t.rval, t.wr.pend))
        (exec (.encSym 0x42) (withWr .opened [false] (withCodes aabTree (start [])))) =
      some (0, 2, [false, true, false]) := by decide +kernel

/-- V-E1: the range, table and codeword refusals. -/
theorem test_enc_sym_refused :
    [511, 0x43].map (fun y => answerOf (exec (.encSym y) (withCodes aabTree (start [])))) =
      [some (0x45, 0), some (0x75, 0)] ∧
    answerOf (exec (.encSym 0x41) (start [])) = some (0x65, 0) := by decide +kernel

/-- V-E8: COMPRESS of "AAB". -/
theorem test_compress :
    viewOf (fun t => (t.rstat, t.rval, t.host.out, t.wr.st, t.rd.pos)) (exec .compress (start [0x41, 0x41, 0x42])) =
      some (0, 3, [0x48, 0x55, 0x46, 0x46, 0x48, 0x29, 0x0B, 0x00, 0x2C], .closed, 24) := by decide +kernel

/-- V-E4: COMPRESS from a moved cursor meets a chunk with no codeword. -/
theorem test_compress_moved :
    viewOf (fun t => (t.rstat, t.host.out, t.wr, t.rd.pos)) (exec .compress (startAt [0x41, 0x42] 8)) =
      some (0x75, [0x48, 0x55, 0x46, 0x46, 0x48, 0x58], { st := .opened, pend := List.replicate 5 false }, 8) := by
  decide +kernel

/-! ### The decoder -/

/-- V-D15: CONTINUE, EMITTED and DONE over the body `0 0 10 11`. -/
theorem test_dec_step :
    viewOf (fun t => (t.rstat, t.dec.path)) (exec .decStep (withTree aabTree [] (startAt [0x2C] 2))) =
      some (0, [true]) ∧
    viewOf (fun t => (t.rstat, t.dec.path, t.host.out)) (exec .decStep (withTree aabTree [true] (startAt [0x2C] 3))) =
      some (0x00421000, [], [0x42]) ∧
    viewOf (fun t => (t.rstat, t.dec.st)) (exec .decStep (withTree aabTree [true] (startAt [0x2C] 5))) =
      some (0x01002000, .done) := by decide +kernel

/-- V-D18: a byte a closed writer cannot take; the bit is consumed and the decoder FAILED. -/
theorem test_dec_step_writer_closed :
    viewOf (fun t => (t.rstat, t.rd.pos, t.dec.st))
        (exec .decStep (withWr .closed [] (withTree pairTree [] (startAt pairStream 53)))) =
      some (0x35, 54, .failed) := by decide +kernel

/-- V-D1: DECOMPRESS stops at the sentinel's last bit. -/
theorem test_decompress :
    viewOf (fun t => (t.rval, t.host.out, t.rd.pos, t.wr.st)) (exec .decompress (start pairStream)) =
      some (1, [0x41], 55, .closed) ∧
    viewOf (fun t => (t.rstat, t.dec.st)) (exec .decompress (start pairStream)) = some (0, .done) := by decide +kernel

/-- V-D4 to V-D8: the truncations of the same stream. -/
theorem test_decompress_truncated :
    [0, 3, 4, 5, 6].map (fun k =>
        viewOf (fun t => (t.rstat, t.rd.pos, t.host.out)) (exec .decompress (start (pairStream.take k)))) =
      [some (0x13, 0, []), some (0x13, 0, []), some (1, 32, []), some (1, 34, []), some (1, 44, [])] := by
  decide +kernel

/-! ### Witnesses: states and operands that meet the hypotheses of the statements -/

theorem witness_DecodeEncodeAgree :
    Instr.WellFormed (.rdRead 63) = true ∧ Instr.WellFormed (.wrWrite 0 0xFFFFFFFF) = true ∧
      Instr.WellFormed (.encSym 511) = true ∧ Instr.WellFormed .decompress = true := by decide

theorem witness_AcceptedWordsAreAssembled :
    decode 0x01FF0041 7 = .ok (.encSym 511) ∧ decode 0x00003F11 7 = .ok (.wrWrite 63 7) := by decide

theorem witness_ReservedEncodingsRefused :
    (withPlan (.issue 0x04 0) (start [])).macroStep = 0 ∧ opField 0x04 ∉ assignedOpcodes ∧
      opField 0x53 ∉ assignedOpcodes ∧
      (opField 0x00010801 ∈ assignedOpcodes ∧ reservedBitSet 0x00010801) ∧
      (opField 0x02000801 ∈ assignedOpcodes ∧ reservedBitSet 0x02000801) ∧
      (opField 0x00000102 ∈ assignedOpcodes ∧ reservedBitSet 0x00000102) ∧
      (opField 0x00003F01 ∈ assignedOpcodes ∧ ¬ reservedBitSet 0x00003F01) := by decide

theorem witness_StepRunsDecodedCommand :
    (withPlan (.issue 0x00000311 5) (start [])).host.plan = .issue 0x00000311 5 :: [] ∧
      decode 0x00000311 5 = .ok (.wrWrite 3 5) := by decide

theorem witness_IdleAndHardReset :
    (start []).host.plan = [] ∧ (withPlan (.reset [1, 2]) (start [])).host.plan = .reset [1, 2] :: [] := by decide

theorem witness_PreCheckOrder :
    (Instr.usesReader .compress = true ∧ (withRd .closed (start [])).rd.st = .closed) ∧
    (Instr.usesWriter .compress = true ∧ (withWr .closed [] (start [])).wr.st = .closed) ∧
    (Instr.usesReader .compress = true ∧ (withRd .failed (start [])).rd.st = .failed ∧
      ¬ (Instr.usesWriter .compress = true ∧ (withRd .failed (start [])).wr.st = .closed)) ∧
    (Instr.usesWriter .compress = true ∧ (withWr .failed [] (start [])).wr.st = .failed ∧
      (Instr.usesReader .compress = true → (withWr .failed [] (start [])).rd.st = .opened)) := by decide

theorem witness_OnlyResetReopens_commands :
    (∃ t, exec (.rdRead 1) (withRd .closed (start [])) = .next t) ∧
    (∃ t, exec .rdClose (withRd .failed (start [])) = .next t) ∧
    (∃ t, exec .wrClose (withWr .closed [] (start [])) = .next t) ∧
    (∃ t, exec .wrClose (withWr .failed [] (start [])) = .next t) := ⟨⟨_, rfl⟩, ⟨_, rfl⟩, ⟨_, rfl⟩, ⟨_, rfl⟩⟩

theorem witness_OnlyResetReopens_step :
    ∃ t, step (withPlan (.reset []) (withRd .closed (start []))) = .next t ∧
      (withPlan (.reset []) (withRd .closed (start []))).rd.st ≠ .opened ∧ t.rd.st = .opened := ⟨_, rfl, by decide, rfl⟩

theorem witness_IllegalWidthsRefused :
    (start []).rd.st = .opened ∧ (start []).wr.st = .opened ∧ (∀ n ∈ [0, 33, 63], n = 0 ∨ 33 ≤ n) ∧
      ∃ t, exec (.wrWrite 33 0) (start []) = .next t ∧ t.rstat = 2 := ⟨rfl, rfl, by decide, _, rfl, by decide⟩

theorem witness_StatusesPerCommand :
    (∃ t, exec .treeDeser (start []) = .next t ∧ t.rstat = Err.endOfStream.rstat) ∧
    (∃ t, exec .treeBuild (start []) = .next t ∧ rstatStatus t.rstat = 0) :=
  ⟨⟨_, rfl, by decide +kernel⟩, ⟨_, rfl, by decide +kernel⟩⟩

theorem witness_FaultsFailTheirUnit_source :
    (∃ t, exec (.rdRead 1) (withSrcErr [true] (start [0])) = .next t ∧ t.rstat = Err.sourceIO.rstat) ∧
    (∃ t, exec .rdClose (withSrcErr [true] (start [0])) = .next t ∧ t.rstat = Err.sourceIO.rstat) :=
  ⟨⟨_, rfl, by decide +kernel⟩, ⟨_, rfl, by decide +kernel⟩⟩

theorem witness_FaultsFailTheirUnit_sink :
    (∃ t, exec (.wrWrite 8 0) (withSinkErr [true] (start [])) = .next t ∧ t.rstat = Err.sinkIO.rstat) ∧
    (∃ t, exec .wrClose (withSinkErr [true] (start [])) = .next t ∧ t.rstat = Err.sinkIO.rstat) :=
  ⟨⟨_, rfl, by decide +kernel⟩, ⟨_, rfl, by decide +kernel⟩⟩

theorem witness_CommandsKeepHostSide : ∃ t, exec .compress (start [0x41]) = .next t := ⟨_, rfl⟩

theorem witness_ReadReturnsNextBits :
    ∀ n ∈ [1, 32], (startAt [1, 2, 3, 4, 5] (40 - n)).rd.st = .opened ∧
      (startAt [1, 2, 3, 4, 5] (40 - n)).host.srcErr.draw.1 = false ∧ 1 ≤ n ∧ n ≤ 32 ∧
      (startAt [1, 2, 3, 4, 5] (40 - n)).rd.pos + n ≤ 8 * (startAt [1, 2, 3, 4, 5] (40 - n)).host.src.length := by decide

/-- Both cases of a 32-bit read: inside a byte and at its start. -/
theorem witness_ReadAcrossByteBoundaries :
    ∀ p ∈ [7, 8], (startAt [1, 2, 3, 4, 5] p).rd.st = .opened ∧
      (startAt [1, 2, 3, 4, 5] p).host.srcErr.draw.1 = false ∧
      (startAt [1, 2, 3, 4, 5] p).rd.pos + 32 ≤ 8 * (startAt [1, 2, 3, 4, 5] p).host.src.length := by decide

theorem witness_ReadIsAllOrNothing :
    (∃ t, exec (.rdRead 8) (startAt [1, 2] 8) = .next t ∧ t.rstat = 0) ∧
    (∃ t, exec (.rdRead 9) (startAt [1, 2] 8) = .next t ∧ t.rstat ≠ 0 ∧ t.rstat = 1) ∧
    ((startAt [1, 2] 8).rd.st = .opened ∧ (startAt [1, 2] 8).host.srcErr.draw.1 = false ∧
      8 * (startAt [1, 2] 8).host.src.length < (startAt [1, 2] 8).rd.pos + 9) :=
  ⟨⟨_, rfl, by decide +kernel⟩, ⟨_, rfl, by decide +kernel⟩, by decide⟩

theorem witness_ReaderBoundary :
    (startAt [1, 2, 3, 4] 0).readerReady ∧ 4 ≤ (startAt [1, 2, 3, 4] 0).host.src.length ∧
      (startAt [1, 2, 3, 4] 0).rd.pos = 8 * (startAt [1, 2, 3, 4] 0).host.src.length - 32 := by decide

theorem witness_RewindReturnsToStart :
    ((startAt [1] 8).rd.st = .opened ∧ (startAt [1] 8).host.srcErr.draw.1 = false ∧
      (startAt [1] 8).host.srcErr.draw.2.draw.1 = false) ∧
    ((withSrcErr [true] (startAt [1] 8)).rd.st = .opened ∧
      (withSrcErr [true] (startAt [1] 8)).host.srcErr.draw.1 = true) ∧
    (withSrcErr [false, true] (startAt [1] 8)).host.srcErr.draw.2.draw.1 = true := by decide

theorem witness_CloseReleasesSource :
    (withRd .closed (start [])).rd.st = .closed ∧ (withRd .failed (start [])).rd.st = .failed ∧
    ((start []).rd.st = .opened ∧ (start []).host.srcErr.draw.1 = false) ∧
    ((withSrcErr [true] (start [])).rd.st = .opened ∧ (withSrcErr [true] (start [])).host.srcErr.draw.1 = true) := by
  decide

theorem witness_ReaderCommandsFrame :
    ∀ i ∈ [Instr.rdRead 32, .rdReset, .rdClose], ∃ t, exec i (start [1, 2, 3, 4]) = .next t := by
  simp only [List.mem_cons, List.not_mem_nil, or_false, forall_eq_or_imp, forall_eq]
  exact ⟨⟨_, rfl⟩, ⟨_, rfl⟩, ⟨_, rfl⟩⟩

/-- A buffer that holds the last bit of byte 0. -/
theorem witness_ReferenceDatapathAgrees :
    bufferInv ((start [1, 2, 3, 4, 5]).setRd { st := .opened, pos := 7, buf := { acc := 1, cnt := 1, nxt := 1 } }) ∧
    ∃ t, exec (.rdRead 32)
        ((start [1, 2, 3, 4, 5]).setRd { st := .opened, pos := 7, buf := { acc := 1, cnt := 1, nxt := 1 } }) = .next t ∧
      t.rstat = 0 := ⟨by decide, _, rfl, by decide +kernel⟩

theorem witness_WriteAppendsLowBits :
    (start []).writerReady ∧ (withWr .opened (List.replicate 7 true) (start [])).writerReady := by decide

/-- V-W9: the third byte of four is refused; and the first and the last byte a write can complete. -/
theorem witness_RefusedByteFailsWriter :
    let s := withSinkErr [false, false, true] (start [])
    let u := withSinkErr [true] (withWr .opened (List.replicate 7 true) (start []))
    let v := withSinkErr [false, false, false, true] (start [])
    (s.wr.st = .opened ∧ s.host.sinkErr.firstRefusal 2 ∧ 8 * (2 + 1) ≤ (s.wr.pend ++ bitsOf 32 0xDEADBEEF).length) ∧
    (u.wr.pend.length ≤ 7 ∧ u.host.sinkErr.firstRefusal 0 ∧ 8 * (0 + 1) ≤ (u.wr.pend ++ bitsOf 1 1).length) ∧
    (v.host.sinkErr.firstRefusal 3 ∧ 8 * (3 + 1) ≤ (v.wr.pend ++ bitsOf 32 0xDEADBEEF).length) ∧
    ∃ t, exec (.wrWrite 32 0xDEADBEEF) s = .next t ∧ t.rstat = Err.sinkIO.rstat :=
  ⟨by decide, by decide, by decide, _, rfl, by decide +kernel⟩

theorem witness_CloseFlushesWriter :
    (start []).writerReady ∧ (withWr .opened (List.replicate 7 true) (start [])).writerReady ∧
    (withWr .closed [] (start [])).wr.st = .closed ∧ (withWr .failed [] (start [])).wr.st = .failed ∧
    (withSinkErr [true] (start [])).host.sinkErr.draw.1 = true ∧
    ((withSinkErr [false, true] (withWr .opened [true] (start []))).wr.pend ≠ [] ∧
      (withSinkErr [false, true] (withWr .opened [true] (start []))).host.sinkErr.draw.1 = false ∧
      (withSinkErr [false, true] (withWr .opened [true] (start []))).host.sinkErr.draw.2.draw.1 = true) := by decide

theorem witness_WriterCommandsFrame :
    ∀ i ∈ [Instr.wrWrite 32 9, .wrClose, .treeSer, .encSym 256],
      ∃ t, exec i (withCodes pairTree (withTree pairTree [] (start []))) = .next t := by
  simp only [List.mem_cons, List.not_mem_nil, or_false, forall_eq_or_imp, forall_eq]
  exact ⟨⟨_, rfl⟩, ⟨_, rfl⟩, ⟨_, rfl⟩, ⟨_, rfl⟩⟩

theorem witness_OutputLength :
    (∀ w ∈ [((1 : Nat), (1 : Word)), (32, 0xDEADBEEF)], 1 ≤ w.1 ∧ w.1 ≤ 32) ∧ (start []).writerReady ∧
      (start []).written = [] := by decide

/-- V-W4: the reader that is given the byte 30. -/
theorem witness_ReaderWriterInverse :
    ∃ t, execAll (writesOf [(4, 0xFFFFFFF3)] ++ [.wrClose]) (start []) = some t ∧
      (start [0x30]).readerReady ∧ (start [0x30]).rd.pos = 0 ∧ (start [0x30]).host.src = t.host.out :=
  ⟨_, rfl, by decide, rfl, by decide +kernel⟩

/-- `MAX_CHUNKS` is 2 with `CNT_W` 2: two chunks are counted and three are not. -/
theorem witness_FreqCountTallies :
    (∀ src ∈ [[1, 2], [1, 2, 3]], State.readerReady { start src with params := { par with cntW := 2 } }) ∧
    State.bitsLeft { start [1, 2] with params := { par with cntW := 2 } } / 8 ≤ maxChunks { par with cntW := 2 } ∧
    maxChunks { par with cntW := 2 } < State.bitsLeft { start [1, 2, 3] with params := { par with cntW := 2 } } / 8 := by
  decide

theorem witness_TreeBuildLoadsTree : ∀ c ∈ (start []).freq.cnt, c = 0 := by decide +kernel

theorem witness_BuiltTreeProperties :
    freqInv ((start []).setFreq (tally [0x41, 0x41, 0x42])) ∧ paramsInv (start []) ∧
    ∃ t, exec .treeBuild ((start []).setFreq (tally [0x41, 0x41, 0x42])) = .next t ∧ t.tree.root = some aabTree :=
  ⟨by decide +kernel, by decide, _, rfl, by decide +kernel⟩

theorem witness_RemoveMinTakesLeast :
    ((seedQueue [2, 1]).items.map QNode.seq).Nodup ∧ (seedQueue [2, 1]).items ≠ [] := by decide +kernel

/-- A tree with distinct symbols and the tree with one repeated (D35). -/
theorem witness_CodeDeriveRecordsPaths :
    (withTree aabTree [] (start [])).tree.root = some aabTree ∧
    (withTree (.internal 0 (.leaf 7 0) (.leaf 7 0)) [] (start [])).tree.root =
      some (.internal 0 (.leaf 7 0) (.leaf 7 0)) := by decide

theorem witness_PrefixFreeCode :
    (withTree aabTree [] (start [])).tree.root = some aabTree ∧ aabTree.symbols.Nodup ∧
    ∃ t, exec .codeDerive (withTree aabTree [] (start [])) = .next t ∧
      t.code.cw.lookup 0x42 = some [true, false] ∧ t.code.cw.lookup 256 = some [true, true] :=
  ⟨rfl, by decide, _, rfl, by decide +kernel, by decide +kernel⟩

theorem witness_CodewordLengths :
    (∃ t, exec .codeDerive (withTree aabTree [] (start [])) = .next t ∧ t.code.cw.lookup 0x42 = some [true, false] ∧
      aabTree.nnodes ≤ (start []).params.nodeCap) ∧
    freqInv (start []) := ⟨⟨_, rfl, by decide +kernel, by decide⟩, by decide +kernel⟩

theorem witness_KraftEquality :
    aabTree.symbols.Nodup ∧ (∃ t, exec .codeDerive (withTree aabTree [] (start [])) = .next t) ∧
    aabTree.depth ≤ [true, true].length := ⟨by decide, ⟨_, rfl⟩, by decide⟩

theorem witness_SerWritesPreorder :
    (withTree aabTree [] (start [])).writerReady ∧ (withTree aabTree [] (start [])).tree.root = some aabTree := by decide

theorem witness_SerializedLength :
    freqInv (start []) ∧ ∃ t u, exec .treeBuild (start []) = .next t ∧ t.tree.root = some u :=
  ⟨by decide +kernel, _, .internal 1 (.leaf 0 0) (.leaf sentinel 1), rfl, by decide +kernel⟩

theorem witness_DeserReadsTree :
    (startAt pairStream 32).readerReady ∧ (startAt pairStream 32).nextBits pairTree.ser ∧
      pairTree.nnodes ≤ (startAt pairStream 32).params.nodeCap := by decide

theorem witness_TreeCodecRoundTrip :
    (withTree pairTree [] (start [])).writerReady ∧ (withTree pairTree [] (start [])).written = [] ∧
    pairTree.nnodes ≤ (start []).params.nodeCap ∧
    ∃ t, execAll [.treeSer, .wrClose] (withTree pairTree [] (start [])) = some t ∧
      (start [0x48, 0x38, 0x00]).readerReady ∧ (start [0x48, 0x38, 0x00]).params = (start []).params ∧
      (start [0x48, 0x38, 0x00]).host.src = t.host.out :=
  ⟨by decide, by decide, by decide, _, rfl, by decide, rfl, by decide +kernel⟩

theorem witness_DeserFailureEmptiesStore :
    (start []).rd.st = .opened ∧ ∃ t, exec .treeDeser (start []) = .next t ∧ t.rstat ≠ 0 ∧ t.wr.st = .opened ∧
      t.rd.st = .opened := ⟨rfl, _, rfl, by decide +kernel, by decide +kernel, by decide +kernel⟩

/-- V-T3's inner leaf of symbol 511, a root leaf of symbol 257, and a store of two nodes with a tree of three. -/
theorem witness_DeserRefusesBadHeaders :
    ((start [0x7F, 0xF8]).readerReady ∧ 1 < pairTree.nnodes ∧ 1 < (start [0x7F, 0xF8]).params.nodeCap ∧
      (start [0x7F, 0xF8]).nextBits (pairTree.headBits 1 ++ true :: bitsOf 9 511)) ∧
    (start [0xC0, 0x40]).nextBits (pairTree.headBits 0 ++ true :: bitsOf 9 257) ∧
    (2 < pairTree.nnodes ∧
      State.nextBits { start [0x48, 0x38] with params := { par with nodeCap := 2 } } (pairTree.headBits 2)) := by
  decide

theorem witness_SourceDrainersFrame :
    (∃ t, exec .freqCount (start [1]) = .next t) ∧ ∃ t, exec .treeDeser (startAt pairStream 32) = .next t :=
  ⟨⟨_, rfl⟩, ⟨_, rfl⟩⟩

/-- The last symbol, and a symbol whose codeword is empty (D36). -/
theorem witness_EncSymTransmits :
    ((withCodes aabTree (start [])).writerReady ∧ (withCodes aabTree (start [])).code.cw.lookup 256 = some [true, true]) ∧
    (withCodes (.leaf 256 0) (start [])).code.cw.lookup 256 = some [] := by decide +kernel

theorem witness_StructureRefusals :
    (start []).wr.st = .opened ∧ (start []).code.valid = false ∧
    ((withCodes aabTree (start [])).code.valid = true ∧ (withCodes aabTree (start [])).code.cw.lookup 255 = none) ∧
    ((start []).tree.root = none ∧ (start []).rd.st = .opened) ∧
    ((withTree aabTree [] (start [])).failDec.tree.root ≠ none ∧ (withTree aabTree [] (start [])).failDec.dec.st ≠ .ready) := by
  decide +kernel

theorem witness_LongCodewordIsChained :
    ∀ w ∈ [List.replicate 32 true, List.replicate 8 true, []], w.length ≤ 32 := by decide

theorem witness_CompressWritesStream :
    ((start [0x41]).wr.pend = [] ∧ ∃ t, exec .compress (start [0x41]) = .next t ∧ t.rstat = 0) ∧
    ((start [1, 2]).readerReady ∧ (start [1, 2]).writerReady ∧ (start [1, 2]).rd.pos = 0 ∧
      State.bitsLeft { start [1, 2] with params := { par with cntW := 2 } } / 8 = maxChunks { par with cntW := 2 }) :=
  ⟨⟨rfl, _, rfl, by decide +kernel⟩, by decide⟩

theorem witness_EmptyInputStream :
    (start []).readerReady ∧ (start []).writerReady ∧ (start []).wr.pend = [] ∧ (start []).host.src = [] := by decide

theorem witness_MinimumAlphabet :
    (start (List.replicate 1000 0x41)).readerReady ∧ (start (List.replicate 1000 0x41)).writerReady ∧
    (start (List.replicate 1000 0x41)).rd.pos = 0 ∧ 1000 ≤ maxChunks (start (List.replicate 1000 0x41)).params := by
  refine ⟨?_, ?_, rfl, ?_⟩ <;> decide +kernel

/-- Two states with the same source whose stores differ. -/
theorem witness_CompressIsDeterministic :
    (start [0x41]).readerReady ∧ (start [0x41]).writerReady ∧ (start [0x41]).written = [] ∧
    (withTree aabTree [] (start [0x41])).readerReady ∧ (withTree aabTree [] (start [0x41])).writerReady ∧
    (withTree aabTree [] (start [0x41])).written = [] ∧
    (∃ t, exec .compress (start [0x41]) = .next t ∧ t.rstat = 0) ∧
    ∃ t, exec .compress (withTree aabTree [] (start [0x41])) = .next t ∧ t.rstat = 0 :=
  ⟨by decide, by decide, by decide, by decide, by decide, by decide, ⟨_, rfl, by decide +kernel⟩,
    ⟨_, rfl, by decide +kernel⟩⟩

/-- The root's right child is internal, its left child a data leaf, and the sentinel is below. -/
theorem witness_DecStepDescends :
    let s := withTree aabTree [] (startAt [0x2C] 2)
    let u := withTree aabTree [true] (startAt [0x2C] 5)
    let v := withTree aabTree [] (startAt [0x2C] 0)
    (s.rd.st = .opened ∧ s.rd.pos + 1 ≤ 8 * s.host.src.length ∧ s.dec.st = .ready ∧ bitAt s.host.src s.rd.pos = true) ∧
    (aabTree.subtree u.dec.path = some (.internal 2 (.leaf 0x42 1) (.leaf sentinel 1)) ∧
      bitAt u.host.src u.rd.pos = true) ∧
    (v.writerReady ∧ aabTree.subtree v.dec.path = some aabTree ∧ bitAt v.host.src v.rd.pos = false) := by decide

theorem witness_DecStepErrors :
    ((withTree (.leaf 256 0) [] (start [0])).rd.st = .opened ∧ (Tree.leaf 256 0).isLeaf = true) ∧
    ((withTree aabTree [] (startAt [0] 8)).dec.st = .ready ∧ 8 * (startAt [0] 8).host.src.length < (startAt [0] 8).rd.pos + 1) ∧
    ((withWr .closed [] (withTree aabTree [] (start [0]))).wr.st ≠ .opened ∧
      (withWr .failed [] (withTree aabTree [] (start [0]))).wr.st ≠ .opened ∧
      aabTree.subtree ((withTree aabTree [] (start [0])).dec.path ++ [bitAt [0] 0]) = some (.leaf 0x41 2)) := by decide

theorem witness_DecoderTransitions :
    (∃ t, exec .codeDerive (start []) = .next t) ∧ (∃ t, exec .treeBuild (start []) = .next t) ∧
    (∃ t, exec .treeDeser (startAt pairStream 32) = .next t ∧ t.rstat = 0) ∧
    (∃ t, exec .treeDeser (start []) = .next t ∧ t.rstat ≠ 0) ∧
    (∃ t, exec .decStep (start [0]) = .next t) ∧
    (∃ t, exec .decStep (withTree aabTree [] (start [0])) = .next t ∧ rstatStatus t.rstat = 0) ∧
    (∃ t, exec .decStep (withTree aabTree [] (start [])) = .next t ∧ rstatStatus t.rstat ≠ 0) :=
  ⟨⟨_, rfl⟩, ⟨_, rfl⟩, ⟨_, rfl, by decide +kernel⟩, ⟨_, rfl, by decide +kernel⟩, ⟨_, rfl⟩,
    ⟨_, rfl, by decide +kernel⟩, ⟨_, rfl, by decide +kernel⟩⟩

/-- COMPRESS with each answer the statement names: OK, SINK_IO, NO_CODEWORD (V-E4), UNIT_CLOSED (V-E5) and CAPACITY. -/
theorem witness_DecoderAndMacroFrame :
    (∃ t, exec .decStep (withTree aabTree [] (start [0])) = .next t) ∧
    (∃ t, exec .decompress (start pairStream) = .next t) ∧
    (∃ t, exec .compress (start [1]) = .next t ∧ t.rstat = 0) ∧
    (∃ t, exec .compress (withSinkErr [true] (start [1])) = .next t ∧ t.rstat = Err.sinkIO.rstat) ∧
    (∃ t, exec .compress (startAt [0x41, 0x42] 8) = .next t ∧ t.rstat = Err.noCodeword.rstat) ∧
    (∃ t, exec .compress (withWr .closed [] (start [1])) = .next t ∧ t.rstat = Err.unitClosed.rstat) ∧
    (∃ t, exec .compress { start [1, 2, 3] with params := { par with cntW := 2 } } = .next t ∧
      t.rstat = Err.capacity.rstat) :=
  ⟨⟨_, rfl⟩, ⟨_, rfl⟩, ⟨_, rfl, by decide +kernel⟩, ⟨_, rfl, by decide +kernel⟩, ⟨_, rfl, by decide +kernel⟩,
    ⟨_, rfl, by decide +kernel⟩, ⟨_, rfl, by decide +kernel⟩⟩

theorem witness_MagicCheck :
    (withSrcErr [true] (start [])).host.srcErr.draw.1 = true ∧
    (8 * (start [0x48, 0x55, 0x46]).host.src.length < (start [0x48, 0x55, 0x46]).rd.pos + 32) ∧
    ((start [0x48, 0x55, 0x46, 0x47]).rd.pos + 32 ≤ 8 * (start [0x48, 0x55, 0x46, 0x47]).host.src.length ∧
      bitsAt [0x48, 0x55, 0x46, 0x47] 0 32 ≠ bitsOf 32 (start []).params.magic.toNat) := by decide

/-- V-D1's stream. -/
theorem witness_DecompressDecodesStream :
    (start pairStream).readerReady ∧ (start pairStream).writerReady ∧ pairTree.isLeaf = false ∧
    pairTree.nnodes ≤ (start pairStream).params.nodeCap ∧ codesFor pairTree pairTree.codes [0x41] ∧
    (start pairStream).nextBits (streamBits (start pairStream).params.magic pairTree pairTree.codes [0x41]) := by
  refine ⟨by decide, by decide, rfl, by decide, ⟨fun c hc => ?_, 0, by decide +kernel⟩, by decide +kernel⟩
  rw [List.mem_singleton] at hc
  subst hc
  exact ⟨0x41, 0, by decide, by decide +kernel⟩

/-- V-E2, then V-D1. -/
theorem witness_RoundTrip :
    (start [0x41]).readerReady ∧ (start [0x41]).writerReady ∧ (start [0x41]).written = [] ∧ paramsInv (start [0x41]) ∧
    (start [0x41]).host.src.length ≤ maxChunks (start [0x41]).params ∧
    ∃ t, exec .compress (start [0x41]) = .next t ∧ (start pairStream).readerReady ∧ (start pairStream).writerReady ∧
      paramsInv (start pairStream) ∧ (start pairStream).host.src = t.host.out :=
  ⟨by decide, by decide, by decide, by decide, by decide, _, rfl, by decide, by decide, by decide, by decide +kernel⟩

/-- V-D5, V-D6 and V-D8: three cuts of the same stream; and a stream an OK COMPRESS wrote from a moved cursor. -/
theorem witness_TruncatedStreamFails :
    (start [0x41]).written = [] ∧ (startAt [0x41, 0x41] 8).written = [] ∧
    (∃ t, exec .compress (startAt [0x41, 0x41] 8) = .next t ∧ t.rstat = 0) ∧
    ∃ t, exec .compress (start [0x41]) = .next t ∧ t.rstat = 0 ∧
      ∀ k ∈ [3, 4, 6], k < t.host.out.length ∧ (start (pairStream.take k)).readerReady ∧
        (start (pairStream.take k)).writerReady ∧ paramsInv (start (pairStream.take k)) ∧
        (start (pairStream.take k)).host.src = t.host.out.take k :=
  ⟨by decide, by decide, ⟨_, rfl, by decide +kernel⟩, _, rfl, by decide +kernel, by decide +kernel⟩

theorem witness_LoopsEnd :
    (startAt [1] 8).rd.pos ≤ 8 * (startAt [1] 8).host.src.length ∧ (start [1]).rd.pos ≤ 8 * (start [1]).host.src.length := by
  decide

/-- A state with a tree loaded, its codes derived, a cursor inside a byte and pending bits meets the invariant. -/
theorem witness_InvariantKeptByStep :
    StateInv (withPlan (.issue 0x51 0) (withWr .opened [true] (withCodes aabTree (withTree aabTree [true]
      ((start [0x2C]).setRd { st := .opened, pos := 3, buf := { acc := 0x0C, cnt := 5, nxt := 1 } }))))) := by
  refine ⟨by decide, by decide, by decide, by decide, by decide +kernel, ?_, ?_, ?_, by decide⟩
  · exact ⟨rfl, by decide, by decide⟩
  · unfold codeInv
    decide +kernel
  · exact show DecState.ready ≠ .done by decide

theorem witness_EveryStepAnswers : ∃ s t, StateInv s ∧ step s = .next t := ⟨_, _, witness_InvariantKeptByStep, rfl⟩

end Sys2Proof.Tests
end

section
/-! PROOF. O12, the host side of every command. `HostKept s₀` is what O12 says of the state a command started in; it
mentions only the parameters, `CMD`, `DATA` and the host side, so an update of one of the block's own units leaves it
the very same proposition and the proof of it for `s` is one for the updated `s`. Each operation of the model keeps it
from wherever it starts (`<operation>_hostKept`), and so each command does. -/

namespace Sys2Proof.Machine

/-! ### How a piece of a command leaves the state -/

/-- The state a piece of a command ends in, whether it goes on or raises. -/
def Res.state {α : Type} : Res α → State
  | .ok _ s => s
  | .raise _ s => s

/-- The rule for program order (R11): a property the first piece ends in, and the next piece keeps, holds at the end. -/
theorem Res.bind_state_of {α β : Type} {P : State → Prop} {r : Res α} {k : α → State → Res β}
    (hr : P r.state) (hk : ∀ a t, P t → P (k a t).state) : P (r.bind k).state := by
  cases r with
  | ok a t => exact hk a t hr
  | raise e t => exact hr

/-- The rule for "on any raise: …": the clean-up keeps the property. -/
theorem Res.onRaise_state_of {α : Type} {P : State → Prop} {r : Res α} {f : State → State}
    (hr : P r.state) (hf : ∀ t, P t → P (f t)) : P (r.onRaise f).state := by
  cases r with
  | ok a t => exact hr
  | raise e t => exact hf t hr

@[simp] theorem preCheck_state (u : List StreamUnit) (s : State) : (preCheck u s).state = s := by
  cases h : preCheck u s with
  | ok _ t => exact (preCheck_eq_ok.1 h).1
  | raise e t => exact (preCheck_eq_raise h).1

/-! ### The host side, kept -/

/-- What O12 says of a command that took `s₀` to `t`. -/
def HostKept (s₀ t : State) : Prop := fixedKept s₀ t ∧ s₀.host.out <+: t.host.out

theorem HostKept.refl (s : State) : HostKept s s := ⟨⟨rfl, rfl, rfl, rfl, rfl⟩, [], List.append_nil _⟩

section
variable {s₀ s t : State} (h : HostKept s₀ s)
include h

theorem HostKept.of_countFrame (hf : countFrame s t) : HostKept s₀ t := by
  rw [hf]
  exact h

theorem HostKept.of_readFrame (hf : readFrame s t) : HostKept s₀ t := h.of_countFrame (countFrame_of_readFrame hf)

theorem HostKept.of_writeFrame (hf : writeFrame s t) (ho : s.host.out <+: t.host.out) : HostKept s₀ t := by
  obtain ⟨hfix, hout⟩ := h
  refine ⟨?_, hout.trans ho⟩
  rw [hf]
  exact hfix

/-! ### The shared operations -/

theorem preCheck_hostKept (u : List StreamUnit) : HostKept s₀ (preCheck u s).state := by
  rw [preCheck_state]
  exact h

theorem readBits_hostKept (n : Nat) : HostKept s₀ (readBits n s).state := by
  rcases readBits_cases n s with ⟨-, hr⟩ | ⟨-, -, hr⟩ | ⟨-, -, hr⟩ <;> rw [hr] <;> exact h

/-- R122, R123: whatever the sink answers, `OUT` stays or grows by the byte. -/
theorem sinkPut_hostKept (b : Byte) : HostKept s₀ (sinkPut b s).2 := by
  cases hd : s.host.sinkErr.draw.1 with
  | false =>
    obtain ⟨-, hf, -, ho, -⟩ := sinkPut_accepted (b := b) hd
    exact h.of_writeFrame hf ⟨[b], ho.symm⟩
  | true =>
    obtain ⟨-, hf, -, ho | ho⟩ := sinkPut_refused (b := b) hd
    · exact h.of_writeFrame hf ⟨[], by simp [ho]⟩
    · exact h.of_writeFrame hf ⟨[b], ho.symm⟩

theorem emitByte_hostKept (b : Byte) : HostKept s₀ (emitByte b s).state := by
  unfold emitByte
  split <;> exact sinkPut_hostKept h b

theorem writeBit_hostKept (b : Bool) : HostKept s₀ (writeBit b s).state := by
  unfold writeBit
  split
  · exact Res.bind_state_of (emitByte_hostKept (s := s.setPend (s.wr.pend ++ [b])) h _) fun _ _ ht => ht
  · exact h

theorem writeList_hostKept (l : Bits) : HostKept s₀ (writeList l s).state := by
  induction l generalizing s with
  | nil => exact h
  | cons b l ih => exact Res.bind_state_of (writeBit_hostKept h b) fun _ _ ht => ih ht

/-! ### The bodies of the commands -/

theorem rewindBody_hostKept : HostKept s₀ (rewindBody s).state := by
  rcases rewindBody_cases s with ⟨t, hr, -, hf, -⟩ | ⟨t, hr, -, hf, -⟩ <;> rw [hr] <;> exact h.of_readFrame hf

theorem closeOpenWriter_hostKept : HostKept s₀ (closeOpenWriter s).state := by
  have hclosed : ∀ t, closedAfter s t → HostKept s₀ t := by
    rintro t ⟨-, hf, ho | ⟨-, ho⟩⟩
    · exact h.of_writeFrame hf ⟨[], by simp [ho]⟩
    · exact h.of_writeFrame hf ⟨_, ho.symm⟩
  cases hr : closeOpenWriter s with
  | ok _ t => exact hclosed t (closeOpenWriter_ok hr).1
  | raise e t => exact hclosed t (closeOpenWriter_raise hr).2

theorem countBody_hostKept : HostKept s₀ (countBody s).state := by
  have hz : HostKept s₀ (s.setFreq Freq.zero) := h
  cases hr : countBody s with
  | ok _ t => exact hz.of_countFrame (countLoop_ok hr).1
  | raise e t => exact hz.of_countFrame (countLoop_raise hr).1

theorem deriveBody_hostKept : HostKept s₀ (deriveBody s).state := by
  cases hr : s.tree.root with
  | none => rw [deriveBody_none hr]; exact h
  | some u => rw [deriveBody_some hr]; exact h

theorem serBody_hostKept : HostKept s₀ (serBody s).state := by
  cases hr : s.tree.root with
  | none => rw [serBody_none hr]; exact h
  | some u =>
    rw [serBody_some hr]
    exact Res.bind_state_of (writeList_hostKept h u.ser) fun _ _ ht => ht

theorem deserBody_hostKept : HostKept s₀ (deserBody s).state := by
  rcases deserBody_cases s with ⟨x, t, hd, hr⟩ | ⟨e, t, hd, hr⟩ <;> rw [hr]
  · exact h.of_readFrame (t := t) (desTree_ok hd).1
  · exact h.of_readFrame (t := t) (desTree_raise hd).1

theorem encodeSymbol_hostKept (y : Nat) : HostKept s₀ (encodeSymbol y s).state := by
  cases hr : s.code.cw.lookup y with
  | none => rw [encodeSymbol_none hr]; exact h
  | some w =>
    rw [encodeSymbol_some hr]
    exact Res.bind_state_of (writeList_hostKept h w) fun _ _ ht => ht

theorem encodeLoop_hostKept (fuel k : Nat) : HostKept s₀ (encodeLoop fuel k s).state := by
  induction fuel generalizing k s with
  | zero => exact h
  | succ fuel ih =>
    have hread := readBits_hostKept h 8
    unfold encodeLoop
    split <;> rename_i hr <;> rw [hr] at hread
    · exact Res.bind_state_of (encodeSymbol_hostKept hread _) fun _ _ ht => ih ht _
    · exact hread
    · exact hread

theorem emitSymbol_hostKept (y : Symbol) : HostKept s₀ (emitSymbol y s).state :=
  have hwrite := Res.bind_state_of (preCheck_hostKept h [.wr]) fun _ _ ht => writeList_hostKept ht (bitsOf 8 y.val)
  Res.bind_state_of (Res.onRaise_state_of hwrite fun _ ht => ht) fun _ _ ht => ht

theorem reachNode_hostKept (u : Tree) : HostKept s₀ (reachNode u s).state := by
  cases u with
  | internal w l r => exact h
  | leaf y w =>
    unfold reachNode
    dsimp only
    split
    · exact h
    · exact emitSymbol_hostKept h y

theorem decBody_hostKept : HostKept s₀ (decBody s).state := by
  cases hroot : s.tree.root with
  | none => rw [decBody_none hroot]; exact h
  | some root =>
    by_cases hd : s.dec.st = .ready
    · cases hl : root.isLeaf with
      | true => rw [decBody_leafRoot hroot hd hl]; exact h
      | false =>
        rw [decBody_ready hroot hd hl]
        refine Res.bind_state_of (Res.onRaise_state_of (readBits_hostKept h 1) fun _ ht => ht) fun b t ht => ?_
        split
        · exact ht
        · next u _ => exact Res.bind_state_of (reachNode_hostKept (s := t.descended (b != 0)) ht u) fun _ _ hv => hv
    · rw [decBody_notReady hroot hd]; exact h

theorem checkMagic_hostKept : HostKept s₀ (checkMagic s).state := by
  have hread := readBits_hostKept h 32
  unfold checkMagic
  split <;> rename_i hr <;> rw [hr] at hread
  · split <;> exact hread
  · exact hread
  · exact hread

theorem decodeLoop_hostKept (fuel e : Nat) : HostKept s₀ (decodeLoop fuel e s).state := by
  induction fuel generalizing e s with
  | zero => exact h
  | succ fuel ih =>
    refine Res.bind_state_of (decBody_hostKept h) fun ev t ht => ?_
    match ev with
    | none => exact ht
    | some .continued => exact ih ht e
    | some (.emitted _) => exact ih ht (e + 1)
    | some .done => exact ht

theorem closeDecoded_hostKept (e : Option Nat) : HostKept s₀ (closeDecoded e s).state := by
  cases e with
  | none => exact h
  | some k => exact Res.bind_state_of (closeOpenWriter_hostKept (s := s.setMacroStep 5) h) fun _ _ ht => ht

/-- R192: the steps of COMPRESS in order. -/
theorem compressBody_hostKept : HostKept s₀ (compressBody s).state :=
  Res.bind_state_of (countBody_hostKept (s := s.setMacroStep 1) h) fun _ t ht =>
  Res.bind_state_of (rewindBody_hostKept (s := (t.setMacroStep 2).builtTree.setMacroStep 3) ht) fun _ t ht =>
  Res.bind_state_of (writeList_hostKept (s := t.setMacroStep 4) ht _) fun _ t ht =>
  Res.bind_state_of (serBody_hostKept (s := t.setMacroStep 5) ht) fun _ t ht =>
  Res.bind_state_of (deriveBody_hostKept (s := t.setMacroStep 6) ht) fun _ t ht =>
  Res.bind_state_of (encodeLoop_hostKept (s := t.setMacroStep 7) ht _ 0) fun _ t ht =>
  Res.bind_state_of (encodeSymbol_hostKept (s := t.setMacroStep 8) ht _) fun _ t ht =>
  Res.bind_state_of (closeOpenWriter_hostKept (s := t.setMacroStep 9) ht) fun _ _ ht => ht

/-- R213: the steps of DECOMPRESS in order. -/
theorem decompressBody_hostKept : HostKept s₀ (decompressBody s).state :=
  Res.bind_state_of (checkMagic_hostKept (s := s.setMacroStep 1) h) fun _ t ht =>
  Res.bind_state_of (deserBody_hostKept (s := t.setMacroStep 2) ht) fun _ t ht =>
  Res.bind_state_of (decodeLoop_hostKept (s := (t.setMacroStep 3).setMacroStep 4) ht _ 0) fun e _ ht =>
  closeDecoded_hostKept ht e

end

/-! ### The commands -/

theorem HostKept.of_finish {s₀ t : State} {r : Res Answer} (ht : finish r = .next t) (h : HostKept s₀ r.state) :
    HostKept s₀ t := by
  rw [← finish_next.1 ht]
  cases r <;> exact h

theorem HostKept.of_finishDefined {s₀ t : State} {r : Res (Option Answer)} (ht : finishDefined r = .next t)
    (h : HostKept s₀ r.state) : HostKept s₀ t := by
  rcases finishDefined_next ht with ⟨a, s, rfl, rfl⟩ | ⟨e, s, rfl, rfl⟩ <;> exact h

/-- A command that is its PreCheck and then `k` keeps the host side where `k` does. -/
theorem HostKept.of_preCheck {α : Type} {s : State} {u : List StreamUnit} {k : PUnit → State → Res α}
    (hk : ∀ a t, HostKept s t → HostKept s (k a t).state) : HostKept s ((preCheck u s).bind k).state :=
  Res.bind_state_of (preCheck_hostKept (.refl s) u) hk

section
variable {s t : State}

theorem execRdRead_hostKept {n : Nat} (h : execRdRead n s = .next t) : HostKept s t := by
  refine .of_finish h (.of_preCheck fun _ u hu => ?_)
  split
  · exact Res.bind_state_of (readBits_hostKept hu n) fun _ _ hv => hv
  · exact hu

theorem execRdReset_hostKept (h : execRdReset s = .next t) : HostKept s t :=
  .of_finish h (.of_preCheck fun _ _ hu => Res.bind_state_of (rewindBody_hostKept hu) fun _ _ hv => hv)

theorem execRdClose_hostKept (h : execRdClose s = .next t) : HostKept s t := by
  refine .of_finish h ?_
  have hs := HostKept.refl s
  split
  · exact hs
  · exact hs
  · split <;> exact hs

theorem execWrWrite_hostKept {n : Nat} {value : Word} (h : execWrWrite n value s = .next t) : HostKept s t := by
  refine .of_finish h (.of_preCheck fun _ u hu => ?_)
  split
  · exact Res.bind_state_of (writeList_hostKept hu _) fun _ _ hv => hv
  · exact hu

theorem execWrClose_hostKept (h : execWrClose s = .next t) : HostKept s t := by
  refine .of_finish h ?_
  have hs := HostKept.refl s
  split
  · exact hs
  · exact hs
  · exact Res.bind_state_of (closeOpenWriter_hostKept hs) fun _ _ hv => hv

theorem execFreqCount_hostKept (h : execFreqCount s = .next t) : HostKept s t :=
  .of_finish h (.of_preCheck fun _ _ hu => Res.bind_state_of (countBody_hostKept hu) fun _ _ hv => hv)

theorem execTreeBuild_hostKept (h : execTreeBuild s = .next t) : HostKept s t :=
  .of_finish h (HostKept.refl s)

theorem execCodeDerive_hostKept (h : execCodeDerive s = .next t) : HostKept s t :=
  .of_finish h (Res.bind_state_of (deriveBody_hostKept (.refl s)) fun _ _ hv => hv)

theorem execTreeSer_hostKept (h : execTreeSer s = .next t) : HostKept s t :=
  .of_finish h (.of_preCheck fun _ _ hu => Res.bind_state_of (serBody_hostKept hu) fun _ _ hv => hv)

theorem execTreeDeser_hostKept (h : execTreeDeser s = .next t) : HostKept s t :=
  .of_finish h (.of_preCheck fun _ _ hu => Res.bind_state_of (deserBody_hostKept hu) fun _ _ hv => hv)

theorem execEncSym_hostKept {y : Nat} (h : execEncSym y s = .next t) : HostKept s t := by
  refine .of_finish h (.of_preCheck fun _ u hu => ?_)
  split
  · exact hu
  · split
    · exact hu
    · exact Res.bind_state_of (encodeSymbol_hostKept hu y) fun _ _ hv => hv

theorem execCompress_hostKept (h : execCompress s = .next t) : HostKept s t :=
  .of_finish h (.of_preCheck fun _ _ hu => Res.bind_state_of (compressBody_hostKept hu) fun _ _ hv => hv)

theorem execDecStep_hostKept (h : execDecStep s = .next t) : HostKept s t :=
  .of_finishDefined h (.of_preCheck fun _ _ hu => Res.bind_state_of (decBody_hostKept hu) fun _ _ hv => hv)

theorem execDecompress_hostKept (h : execDecompress s = .next t) : HostKept s t :=
  .of_finishDefined h (.of_preCheck fun _ _ hu => Res.bind_state_of (decompressBody_hostKept hu) fun _ _ hv => hv)

end

/-- Settles O12, command by command. -/
theorem commandsKeepHostSide : Obligations.CommandsKeepHostSide := by
  intro i s t h
  change HostKept s t
  cases i with
  | rdRead n => exact execRdRead_hostKept h
  | rdReset => exact execRdReset_hostKept h
  | rdClose => exact execRdClose_hostKept h
  | wrWrite n value => exact execWrWrite_hostKept h
  | wrClose => exact execWrClose_hostKept h
  | freqCount => exact execFreqCount_hostKept h
  | treeBuild => exact execTreeBuild_hostKept h
  | codeDerive => exact execCodeDerive_hostKept h
  | treeSer => exact execTreeSer_hostKept h
  | treeDeser => exact execTreeDeser_hostKept h
  | encSym y => exact execEncSym_hostKept h
  | compress => exact execCompress_hostKept h
  | decStep => exact execDecStep_hostKept h
  | decompress => exact execDecompress_hostKept h

end Sys2Proof.Machine
end

section
/-! PROOF. The words and lists under the invariant: `RSTAT` read back from its fields (R79 to R83), and TREE.BUILD's
collection Q, whose merging always ends with one tree of at most 513 nodes (R143 to R149). -/

namespace Sys2Proof.Machine

/-! ### RSTAT (R79) -/

section
variable (status : BitVec 4) (detail : BitVec 8) (event : BitVec 2) (rsym : BitVec 9)

theorem toNat_append_eq_add {v w : Nat} (hi : BitVec v) (lo : BitVec w) :
    (hi ++ lo).toNat = hi.toNat * 2 ^ w + lo.toNat := by
  rw [BitVec.toNat_append, ← Nat.shiftLeft_add_eq_or_of_lt lo.isLt, Nat.shiftLeft_eq]

theorem rstatWord_toNat : (rstatWord status detail event rsym).toNat =
    rsym.toNat * 2 ^ 16 + event.toNat * 2 ^ 12 + detail.toNat * 2 ^ 4 + status.toNat := by
  unfold rstatWord
  simp only [toNat_append_eq_add, BitVec.toNat_ofNat]
  omega

@[simp] theorem rstatStatus_rstatWord : rstatStatus (rstatWord status detail event rsym) = status := by
  apply BitVec.eq_of_toNat_eq
  rw [rstatStatus, BitVec.extractLsb'_toNat, rstatWord_toNat]
  omega

@[simp] theorem rstatDetail_rstatWord : rstatDetail (rstatWord status detail event rsym) = detail := by
  apply BitVec.eq_of_toNat_eq
  rw [rstatDetail, BitVec.extractLsb'_toNat, rstatWord_toNat, Nat.shiftRight_eq_div_pow]
  omega

@[simp] theorem rstatEvent_rstatWord : rstatEvent (rstatWord status detail event rsym) = event := by
  apply BitVec.eq_of_toNat_eq
  rw [rstatEvent, BitVec.extractLsb'_toNat, rstatWord_toNat, Nat.shiftRight_eq_div_pow]
  omega

@[simp] theorem rstatSym_rstatWord : rstatSym (rstatWord status detail event rsym) = rsym := by
  apply BitVec.eq_of_toNat_eq
  rw [rstatSym, BitVec.extractLsb'_toNat, rstatWord_toNat, Nat.shiftRight_eq_div_pow]
  omega

end

/-- What `EVENT` and `RSYM` of an OK answer may be (R83). -/
def Answer.Valid (a : Answer) : Prop := a.event ≤ 2 ∧ a.rsym ≤ 256

theorem Answer.value_valid (rval : Word) : (Answer.value rval).Valid :=
  ⟨show (0 : BitVec 2) ≤ 2 by decide, show (0 : BitVec 9) ≤ 256 by decide⟩

theorem Answer.ofEvent_valid (e : DecEvent) : (Answer.ofEvent e).Valid := by
  cases e with
  | continued => exact ⟨by decide, by decide⟩
  | emitted y =>
    refine ⟨show (1 : BitVec 2) ≤ 2 by decide, ?_⟩
    have hy := y.isLt
    change BitVec.ofNat 9 y.val ≤ 256
    rw [BitVec.le_def, BitVec.toNat_ofNat, Nat.mod_eq_of_lt (by omega)]
    exact Nat.le_of_lt_succ hy
  | done => exact ⟨by decide, by decide⟩

theorem Err.status_le (e : Err) : e.status ≤ 6 := by cases e <;> decide

theorem answerInv_answer {a : Answer} (s : State) (ha : a.Valid) : answerInv (s.answer a) := by
  obtain ⟨hevent, hsym⟩ := ha
  simp only [answerInv, State.answer_rstat, Answer.rstat, rstatStatus_rstatWord, rstatDetail_rstatWord,
    rstatEvent_rstatWord, rstatSym_rstatWord, true_and]
  exact ⟨by decide, hevent, hsym, fun h => absurd rfl h, rfl⟩

theorem answerInv_answerError (e : Err) (s : State) : answerInv (s.answerError e) := by
  simp only [answerInv, State.answerError_rstat, Err.rstat, rstatStatus_rstatWord, rstatDetail_rstatWord,
    rstatEvent_rstatWord, rstatSym_rstatWord, true_and, and_true]
  exact ⟨e.status_le, by decide, by decide, fun _ => rfl, rfl⟩

/-! ### Q -/

/-- What Insert and RemoveMin keep of Q: its sequence numbers are distinct, and each is below the next one. -/
structure Queue.WellNumbered (q : Queue) : Prop where
  distinct : (q.items.map QNode.seq).Nodup
  below : ∀ e ∈ q.items, e.seq < q.next

/-- One more than its nodes for every tree in Q. A merge makes one tree of two and adds one node, so it keeps this. -/
def Queue.size (q : Queue) : Nat := (q.items.map fun e => e.tree.nnodes + 1).sum

theorem Queue.empty_wellNumbered : Queue.empty.WellNumbered :=
  ⟨List.nodup_nil, fun _ he => absurd he List.not_mem_nil⟩

theorem Queue.WellNumbered.insert {q : Queue} (hq : q.WellNumbered) (t : Tree) : (q.insert t).WellNumbered := by
  obtain ⟨hdistinct, hbelow⟩ := hq
  constructor
  · simp only [Queue.insert, List.map_append, List.map_cons, List.map_nil]
    refine hdistinct.append (List.nodup_singleton _) ?_
    simp only [List.disjoint_singleton, List.mem_map, not_exists, not_and]
    exact fun e he => (hbelow e he).ne
  · intro e he
    rcases List.mem_append.1 he with he | he
    · exact (hbelow e he).trans (Nat.lt_succ_self _)
    · rw [List.mem_singleton.1 he]
      exact Nat.lt_succ_self _

@[simp] theorem Queue.insert_length (q : Queue) (t : Tree) : (q.insert t).items.length = q.items.length + 1 := by
  simp [Queue.insert]

@[simp] theorem Queue.insert_size (q : Queue) (t : Tree) : (q.insert t).size = q.size + (t.nnodes + 1) := by
  simp [Queue.insert, Queue.size]

theorem leastNode_mem (x : QNode) (xs : List QNode) : leastNode x xs ∈ x :: xs := by
  unfold leastNode
  induction xs generalizing x with
  | nil => exact List.mem_singleton_self x
  | cons y xs ih =>
    rw [List.foldl_cons]
    rcases List.mem_cons.1 (ih (if y.before x then y else x)) with h | h
    · rw [h]
      split <;> simp
    · simp [h]

theorem getD_mem {α : Type} {l m : List α} {d : α} (hl : l ⊆ m) (hd : d ∈ m) (i : Nat) : l.getD i d ∈ m := by
  rw [List.getD_eq_getElem?_getD]
  cases h : l[i]? with
  | none => exact hd
  | some e => exact hl (List.mem_of_getElem? h)

theorem chooseMin_mem (tb : TieBreak) (hist : List QueueOp) (x : QNode) (xs : List QNode) :
    chooseMin tb hist x xs ∈ x :: xs := by
  cases tb with
  | tbSeq => exact leastNode_mem x xs
  | other p => exact getD_mem (List.filter_subset_self _) (leastNode_mem x xs) _

/-- Where sequence numbers are distinct, removing by number removes the node itself. -/
theorem eraseP_seq_eq_erase {l : List QNode} {e : QNode} (hl : (l.map QNode.seq).Nodup) (he : e ∈ l) :
    l.eraseP (fun y => y.seq == e.seq) = l.erase e := by
  induction l with
  | nil => rfl
  | cons x l ih =>
    rw [List.map_cons, List.nodup_cons] at hl
    by_cases hx : x = e
    · simp [hx]
    · have hmem : e ∈ l := (List.mem_cons.1 he).resolve_left (Ne.symm hx)
      have hseq : x.seq ≠ e.seq := fun h => hl.1 (h ▸ List.mem_map_of_mem hmem)
      rw [List.eraseP_cons_of_neg (by simpa using hseq), List.erase_cons_tail (by simpa using hx), ih hl.2 hmem]

/-- R146: RemoveMin takes one node of a non-empty Q and leaves the others in order. -/
theorem Queue.removeMin_eq {q : Queue} (tb : TieBreak) (hq : (q.items.map QNode.seq).Nodup) (hne : q.items ≠ []) :
    ∃ e ∈ q.items, q.removeMin tb =
      some (e.tree, { items := q.items.erase e, next := q.next, hist := q.hist ++ [.removeMin] }) := by
  obtain ⟨x, xs, hitems⟩ := List.exists_cons_of_ne_nil hne
  have hmem := chooseMin_mem tb q.hist x xs
  rw [← hitems] at hmem
  refine ⟨_, hmem, ?_⟩
  rw [← eraseP_seq_eq_erase hq hmem, Queue.removeMin]
  simp only [hitems]

/-- RemoveMin on a non-empty Q: one node fewer, and the nodes of the tree taken are those that left. -/
theorem Queue.WellNumbered.removeMin {q : Queue} (tb : TieBreak) (hq : q.WellNumbered) (hne : q.items ≠ []) :
    ∃ t r, q.removeMin tb = some (t, r) ∧ r.WellNumbered ∧ r.items.length + 1 = q.items.length ∧
      t.nnodes + 1 + r.size = q.size := by
  obtain ⟨hdistinct, hbelow⟩ := hq
  obtain ⟨e, he, hr⟩ := Queue.removeMin_eq tb hdistinct hne
  refine ⟨e.tree, _, hr, ⟨?_, ?_⟩, ?_, ?_⟩
  · exact hdistinct.sublist (List.erase_sublist.map _)
  · exact fun f hf => hbelow f (List.mem_of_mem_erase hf)
  · exact List.length_erase_add_one he
  · exact List.sum_map_erase (fun f : QNode => f.tree.nnodes + 1) he

/-- R143: merging ends with one tree, made of all the nodes Q held and one more per merge. -/
theorem mergeLoop_single {q : Queue} (tb : TieBreak) {fuel : Nat} (hq : q.WellNumbered)
    (hne : q.items ≠ []) (hfuel : q.items.length ≤ fuel) :
    ∃ e, (mergeLoop tb fuel q).items = [e] ∧ e.tree.nnodes + 1 = q.size := by
  induction fuel generalizing q with
  | zero => exact absurd (List.length_eq_zero_iff.1 (Nat.le_zero.1 hfuel)) hne
  | succ fuel ih =>
    have hpos := List.length_pos_iff.2 hne
    unfold mergeLoop
    by_cases hone : q.items.length ≤ 1
    · obtain ⟨e, he⟩ := List.length_eq_one_iff.1 (Nat.le_antisymm hone hpos)
      rw [if_pos hone]
      exact ⟨e, he, by simp [Queue.size, he]⟩
    · obtain ⟨a, q1, ha, hq1, hlen1, hsize1⟩ := hq.removeMin tb hne
      obtain ⟨b, q2, hb, hq2, hlen2, hsize2⟩ := hq1.removeMin tb (List.length_pos_iff.1 (by omega))
      have hmerged := hq2.insert (.internal (a.weight + b.weight) a b)
      obtain ⟨e, he, hsize⟩ := ih hmerged (List.length_pos_iff.1 (by simp)) (by simp; omega)
      rw [if_neg hone, ha]
      simp only [hb]
      refine ⟨e, he, ?_⟩
      rw [hsize, Queue.insert_size, Tree.nnodes]
      omega

/-! ### The seeds -/

theorem seedLeaves_length_le (c : Nat) (cnt : List Nat) : (seedLeaves c cnt).length ≤ cnt.length := by
  induction cnt generalizing c with
  | nil => exact Nat.le_refl _
  | cons n cnt ih =>
    have hrest := ih (c + 1)
    unfold seedLeaves
    split
    · exact Nat.succ_le_succ hrest
    · exact Nat.le_succ_of_le hrest

theorem seedLeaves_nnodes {c : Nat} {cnt : List Nat} {t : Tree} (h : t ∈ seedLeaves c cnt) : t.nnodes = 1 := by
  induction cnt generalizing c with
  | nil => exact absurd h List.not_mem_nil
  | cons n cnt ih =>
    unfold seedLeaves at h
    split at h
    · rcases List.mem_cons.1 h with rfl | h
      · rfl
      · exact ih h
    · exact ih h

/-- Inserting trees of one node each, one after the other. -/
theorem Queue.WellNumbered.insertLeaves {q : Queue} {ts : List Tree} (hq : q.WellNumbered)
    (hts : ∀ t ∈ ts, t.nnodes = 1) :
    (ts.foldl Queue.insert q).WellNumbered ∧ (ts.foldl Queue.insert q).items.length = q.items.length + ts.length ∧
      (ts.foldl Queue.insert q).size = q.size + 2 * ts.length := by
  induction ts generalizing q with
  | nil => exact ⟨hq, rfl, rfl⟩
  | cons t ts ih =>
    obtain ⟨hnum, hlen, hsize⟩ := ih (hq.insert t) fun u hu => hts u (List.mem_cons_of_mem t hu)
    rw [Queue.insert_length] at hlen
    rw [Queue.insert_size, hts t List.mem_cons_self] at hsize
    rw [List.foldl_cons, List.length_cons]
    exact ⟨hnum, by omega, by omega⟩

/-- R143 to R145: the seeds are leaves: the sentinel with at most one leaf per counter, or two leaves. -/
theorem seedQueue_eq (cnt : List Nat) :
    ∃ ts, seedQueue cnt = ts.foldl Queue.insert Queue.empty ∧ (∀ t ∈ ts, t.nnodes = 1) ∧ ts ≠ [] ∧
      ts.length ≤ max 2 (cnt.length + 1) := by
  have hlen := seedLeaves_length_le 0 cnt
  have hleaf : ∀ t ∈ seedLeaves 0 cnt, t.nnodes = 1 := fun _ => seedLeaves_nnodes
  have hseeded : ((seedLeaves 0 cnt).foldl Queue.insert Queue.empty).items.length = (seedLeaves 0 cnt).length := by
    rw [(Queue.empty_wellNumbered.insertLeaves hleaf).2.1]
    exact Nat.zero_add _
  unfold seedQueue
  dsimp only
  split
  · next hfew =>
    rw [Queue.insert_length, hseeded] at hfew
    refine ⟨seedLeaves 0 cnt ++ [.leaf sentinel 1, .leaf 0 0], by simp, ?_, by simp, ?_⟩
    · simpa [or_imp, forall_and, Tree.nnodes] using hleaf
    · rw [List.length_append, List.length_cons, List.length_singleton]; omega
  · refine ⟨seedLeaves 0 cnt ++ [.leaf sentinel 1], by simp, ?_, by simp, ?_⟩
    · simpa [or_imp, forall_and, Tree.nnodes] using hleaf
    · rw [List.length_append, List.length_singleton]; omega

/-- R149: TREE.BUILD always makes a tree, of at most 2 * 257 - 1 nodes. -/
theorem buildTree_some (tb : TieBreak) {cnt : List Nat} (h : cnt.length = 256) :
    ∃ t, buildTree tb cnt = some t ∧ t.nnodes ≤ 513 := by
  obtain ⟨ts, hseed, hleaf, hne, hcount⟩ := seedQueue_eq cnt
  obtain ⟨hnum, hlen, hsize⟩ := Queue.empty_wellNumbered.insertLeaves hleaf
  rw [← hseed] at hnum hlen hsize
  have hpos := List.length_pos_iff.2 hne
  obtain ⟨e, he, hnodes⟩ := mergeLoop_single tb hnum (List.length_pos_iff.1 (by omega)) (Nat.le_refl _)
  have hempty : Queue.empty.size = 0 := rfl
  exact ⟨e.tree, by rw [buildTree, he], by omega⟩

end Sys2Proof.Machine
end

section
/-! PROOF. The reference datapath (R108): each fetch, refill and read keeps the accumulator in step with the cursor. -/

namespace Sys2Proof.Machine

/-! ### Bit lists -/

theorem val_append (a b : Bits) : val (a ++ b) = val a * 2 ^ b.length + val b := by
  induction a with
  | nil => simp
  | cons x a ih =>
    rw [List.cons_append, val_cons, val_cons, ih, List.length_append, pow_add]
    ring

theorem bitsAt_add (src : List Byte) (p m n : Nat) : bitsAt src p (m + n) = bitsAt src p m ++ bitsAt src (p + m) n := by
  induction m generalizing p with
  | zero => simp [bitsAt]
  | succ m ih => rw [Nat.succ_add, bitsAt, ih, bitsAt, List.cons_append, Nat.add_right_comm, Nat.add_assoc]

/-- R51: the eight bits of byte `i`, most significant first. -/
theorem bitsAt_byte {src : List Byte} {i : Nat} {b : Byte} (h : src[i]? = some b) :
    bitsAt src (8 * i) 8 = bitsOf 8 b.toNat := by
  have hbit : ∀ j < 8, bitAt src (8 * i + j) = b.toNat.testBit (7 - j) := by
    intro j hj
    have hq : (8 * i + j) / 8 = i := by omega
    have hr : (8 * i + j) % 8 = j := by omega
    rw [bitAt, hq, hr, List.getD_eq_getElem?_getD, h, Option.getD_some, BitVec.testBit_toNat]
  have hzero : bitAt src (8 * i) = b.toNat.testBit 7 := hbit 0 (by decide)
  simp [bitsAt, bitsOf, Nat.add_assoc, hzero, hbit]

/-! ### The reference datapath -/

/-- What R108 keeps of the accumulator: it ends at a byte boundary inside the source and holds the bits from `pos` on. -/
structure ReadBuffer.Tracks (b : ReadBuffer) (src : List Byte) (pos : Nat) : Prop where
  aligned : pos + b.cnt = 8 * b.nxt
  inside : b.nxt ≤ src.length
  holds : b.acc.toNat % 2 ^ b.cnt = val (bitsAt src pos b.cnt)

theorem ReadBuffer.empty_tracks (src : List Byte) : ReadBuffer.empty.Tracks src 0 :=
  ⟨rfl, Nat.zero_le _, rfl⟩

/-- The accumulator after one more byte. -/
def ReadBuffer.fetch (b : ReadBuffer) (byte : Byte) : ReadBuffer :=
  { acc := (b.acc <<< 8) ||| byte.setWidth Config.accW, cnt := b.cnt + 8, nxt := b.nxt + 1 }

theorem ReadBuffer.refill_fetch {b : ReadBuffer} {src : List Byte} {byte : Byte} {n : Nat} (fuel : Nat)
    (hn : b.cnt < n) (hb : src[b.nxt]? = some byte) : b.refill src n (fuel + 1) = (b.fetch byte).refill src n fuel := by
  rw [refill, if_pos hn, srcFetch, hb]
  rfl

theorem ReadBuffer.refill_eq_self {b : ReadBuffer} {src : List Byte} {n : Nat} (fuel : Nat)
    (h : n ≤ b.cnt ∨ src.length ≤ b.nxt) : b.refill src n fuel = b := by
  cases fuel with
  | zero => rfl
  | succ fuel =>
    rw [refill]
    split
    · next hn =>
      have hnone : srcFetch src b.nxt = none := List.getElem?_eq_none (h.resolve_left (by omega))
      rw [hnone]
    · rfl

/-- The bits valid after a fetch are the valid ones before it and then the byte, while 39 bits hold them. -/
theorem ReadBuffer.fetch_acc {b : ReadBuffer} (byte : Byte) (hc : b.cnt ≤ 31) :
    (b.fetch byte).acc.toNat % 2 ^ (b.cnt + 8) = b.acc.toNat % 2 ^ b.cnt * 2 ^ 8 + byte.toNat := by
  have hbyte : byte.toNat < 2 ^ 8 := byte.isLt
  have hshift : b.acc.toNat <<< 8 % 2 ^ 39 = (b.acc.toNat % 2 ^ 31) <<< 8 := by
    rw [Nat.shiftLeft_eq, Nat.shiftLeft_eq]
    omega
  have hacc : (b.fetch byte).acc.toNat = b.acc.toNat % 2 ^ 31 * 2 ^ 8 + byte.toNat := by
    rw [fetch, BitVec.toNat_or, BitVec.toNat_shiftLeft, hshift, BitVec.toNat_setWidth,
      Nat.mod_eq_of_lt (show byte.toNat < 2 ^ Config.accW by simp only [Config.accW]; omega),
      ← Nat.shiftLeft_add_eq_or_of_lt hbyte, Nat.shiftLeft_eq]
  have hmod : (b.acc.toNat % 2 ^ 31 * 2 ^ 8 + byte.toNat) % 2 ^ 8 = byte.toNat := by omega
  have hdiv : (b.acc.toNat % 2 ^ 31 * 2 ^ 8 + byte.toNat) / 2 ^ 8 = b.acc.toNat % 2 ^ 31 := by omega
  rw [hacc, Nat.add_comm b.cnt, pow_add, Nat.mod_mul, hmod, hdiv, Nat.mod_mod_of_dvd _ (Nat.pow_dvd_pow 2 hc)]
  ring

theorem ReadBuffer.Tracks.fetch {b : ReadBuffer} {src : List Byte} {pos : Nat} {byte : Byte} (h : b.Tracks src pos)
    (hc : b.cnt ≤ 31) (hb : src[b.nxt]? = some byte) : (b.fetch byte).Tracks src pos := by
  obtain ⟨haligned, -, hholds⟩ := h
  have hlt : b.nxt < src.length := (List.getElem?_eq_some_iff.1 hb).1
  refine ⟨?_, hlt, ?_⟩
  · simp only [ReadBuffer.fetch]; omega
  · have hval : val (bitsAt src (8 * b.nxt) 8) = byte.toNat := by
      rw [bitsAt_byte hb, val_bitsOf, Nat.mod_eq_of_lt byte.isLt]
    change (b.fetch byte).acc.toNat % 2 ^ (b.cnt + 8) = val (bitsAt src pos (b.cnt + 8))
    rw [fetch_acc byte hc, hholds, bitsAt_add, val_append, bitsAt_length, haligned, hval]

theorem ReadBuffer.Tracks.consume {b : ReadBuffer} {src : List Byte} {pos n : Nat} (h : b.Tracks src pos)
    (hn : n ≤ b.cnt) : (b.consume n).Tracks src (pos + n) := by
  obtain ⟨haligned, hinside, hholds⟩ := h
  refine ⟨?_, hinside, ?_⟩
  · simp only [ReadBuffer.consume]; omega
  · have hsplit : bitsAt src pos b.cnt = bitsAt src pos n ++ bitsAt src (pos + n) (b.cnt - n) := by
      rw [← bitsAt_add, Nat.add_sub_cancel' hn]
    have hlt := val_lt (bitsAt src (pos + n) (b.cnt - n))
    rw [hsplit, val_append, bitsAt_length] at hholds
    rw [bitsAt_length] at hlt
    change b.acc.toNat % 2 ^ (b.cnt - n) = val (bitsAt src (pos + n) (b.cnt - n))
    rw [← Nat.mod_mod_of_dvd b.acc.toNat (Nat.pow_dvd_pow 2 (Nat.sub_le b.cnt n)), hholds, Nat.mul_add_mod_self_right,
      Nat.mod_eq_of_lt hlt]

/-- R108: refilling for `n` bits keeps the accumulator in step, stops within a byte past `n`, and, where the source has
`n` bits from `pos` on and the rounds can fetch them, ends with at least `n`. -/
theorem ReadBuffer.Tracks.refill {b : ReadBuffer} {src : List Byte} {pos n : Nat} (fuel : Nat) (h : b.Tracks src pos)
    (hn : n ≤ 32) :
    (b.refill src n fuel).Tracks src pos ∧ (b.refill src n fuel).cnt ≤ max b.cnt (n + 7) ∧
      (pos + n ≤ 8 * src.length → n ≤ b.cnt + 8 * fuel → n ≤ (b.refill src n fuel).cnt) := by
  induction fuel generalizing b with
  | zero => exact ⟨h, le_max_left _ _, fun _ hf => hf⟩
  | succ fuel ih =>
    by_cases hfetch : b.cnt < n ∧ b.nxt < src.length
    · obtain ⟨hlt, hin⟩ := hfetch
      have hb : src[b.nxt]? = some src[b.nxt] := List.getElem?_eq_getElem hin
      have hcnt : (b.fetch src[b.nxt]).cnt = b.cnt + 8 := rfl
      obtain ⟨htracks, hmax, henough⟩ := ih (h.fetch (by omega) hb)
      rw [refill_fetch fuel hlt hb]
      rw [hcnt] at hmax henough
      exact ⟨htracks, by omega, fun hp hf => henough hp (by omega)⟩
    · have haligned := h.aligned
      rw [refill_eq_self _ (by omega)]
      exact ⟨h, le_max_left _ _, fun hp _ => by omega⟩

theorem bufferInv_iff (s : State) :
    bufferInv s ↔ (s.rd.st = .opened → s.rd.buf.Tracks s.host.src s.rd.pos ∧ s.rd.buf.cnt ≤ 31) :=
  forall_congr' fun _ => ⟨fun ⟨a, b, c, d⟩ => ⟨⟨a, b, d⟩, c⟩, fun ⟨⟨a, b, d⟩, c⟩ => ⟨a, b, c, d⟩⟩

end Sys2Proof.Machine
end

section
/-! PROOF. The invariant inside a command. `Res.Ends` says what holds where a piece of a command goes on and where it
raises; `BlockInv` is the invariant without its clause on the answer, and `MidInv u` also names the writer's state, since
writing bits keeps R29 only on an OPEN writer. Each operation of the model keeps them (`<operation>_midInv`). -/

namespace Sys2Proof.Machine

/-! ### How a piece of a command ends -/

/-- Where the piece goes on, `P` holds of its value and state; where it raises, `Q` holds of the state. -/
def Res.Ends {α : Type} (r : Res α) (P : α → State → Prop) (Q : State → Prop) : Prop :=
  match r with
  | .ok a s => P a s
  | .raise _ s => Q s

theorem Res.Ends.mono {α : Type} {r : Res α} {P P' : α → State → Prop} {Q Q' : State → Prop} (h : r.Ends P Q)
    (hP : ∀ a s, P a s → P' a s) (hQ : ∀ s, Q s → Q' s) : r.Ends P' Q' := by
  cases r with
  | ok a s => exact hP a s h
  | raise e s => exact hQ s h

/-- The rule for program order (R11). -/
theorem Res.Ends.bind {α β : Type} {r : Res α} {k : α → State → Res β} {P : α → State → Prop} {P' : β → State → Prop}
    {Q : State → Prop} (h : r.Ends P Q) (hk : ∀ a s, P a s → (k a s).Ends P' Q) : (r.bind k).Ends P' Q := by
  cases r with
  | ok a s => exact hk a s h
  | raise e s => exact h

/-- The rule for "on any raise: …". -/
theorem Res.Ends.onRaise {α : Type} {r : Res α} {f : State → State} {P : α → State → Prop} {Q : State → Prop}
    (h : r.Ends P fun s => Q (f s)) : (r.onRaise f).Ends P Q := by
  cases r <;> exact h

/-- A command that checks its units first: what follows runs on the same state, with the writer OPEN if it is used. -/
theorem preCheck_ends {α : Type} {u : List StreamUnit} {s : State} {k : PUnit → State → Res α}
    {P : α → State → Prop} {Q : State → Prop} (hQ : Q s)
    (hk : (StreamUnit.wr ∈ u → s.wr.st = .opened) → (k ⟨⟩ s).Ends P Q) : ((preCheck u s).bind k).Ends P Q := by
  cases hr : preCheck u s with
  | ok _ t =>
    obtain ⟨rfl, -, hwr⟩ := preCheck_eq_ok.1 hr
    exact hk hwr
  | raise e t =>
    obtain ⟨rfl, -⟩ := preCheck_eq_raise hr
    exact hQ

/-! ### The invariant inside a command -/

/-- The invariant of the machine without its clause on the answer, which no command has written while it runs. -/
structure BlockInv (s : State) : Prop where
  params : paramsInv s
  reader : readerInv s
  buffer : bufferInv s
  writer : writerInv s
  freq : freqInv s
  tree : treeInv s
  code : codeInv s
  decoder : decoderInv s

theorem stateInv_iff {s : State} : StateInv s ↔ BlockInv s ∧ answerInv s :=
  ⟨fun ⟨p, r, b, w, f, t, c, d, a⟩ => ⟨⟨p, r, b, w, f, t, c, d⟩, a⟩,
    fun ⟨⟨p, r, b, w, f, t, c, d⟩, a⟩ => ⟨p, r, b, w, f, t, c, d, a⟩⟩

/-- The same with the state of the writer named: a piece that writes bits needs it OPEN and leaves it so (R29). -/
structure MidInv (u : UnitState) (s : State) : Prop extends BlockInv s where
  writerSt : s.wr.st = u

section
variable {u : UnitState} {s t : State}

theorem BlockInv.mid (h : BlockInv s) : MidInv s.wr.st s := ⟨h, rfl⟩

/-- `step` is not in the invariant of a running command. -/
theorem MidInv.setMacroStep (h : MidInv u s) (k : Fin 10) : MidInv u (s.setMacroStep k) := { h with }

theorem BlockInv.of_readFrame (h : BlockInv s) (hf : readFrame s t) (hr : readerInv t) (hb : bufferInv t) :
    BlockInv t := by
  rw [hf] at hr hb ⊢
  exact { h with reader := hr, buffer := hb }

theorem BlockInv.of_writeFrame (h : BlockInv s) (hf : writeFrame s t) (hw : writerInv t) : BlockInv t := by
  rw [hf] at hw ⊢
  exact { h with writer := hw }

/-! ### Reading -/

/-- ReadBits of at most 32 bits, however it ends. -/
theorem readBits_framed {n : Nat} (h : MidInv u s) (hn : n ≤ 32) :
    (readBits n s).Ends (fun v t => MidInv u t ∧ readFrame s t ∧ v < 2 ^ n) fun t => MidInv u t ∧ readFrame s t := by
  have hbuf := (bufferInv_iff s).1 h.buffer
  rcases readBits_cases n s with ⟨-, hr⟩ | ⟨-, hp, hr⟩ | ⟨-, hp, hr⟩ <;> rw [hr]
  · exact ⟨{ h with buffer := nofun }, rfl⟩
  · refine ⟨{ h with buffer := (bufferInv_iff _).2 fun ho => ?_ }, rfl⟩
    obtain ⟨htracks, hcnt⟩ := hbuf ho
    obtain ⟨hrefill, -, -⟩ := htracks.refill n hn
    have haligned := hrefill.aligned
    have hinside := hrefill.inside
    exact ⟨hrefill, show (s.rd.buf.refill s.host.src n n).cnt ≤ 31 by omega⟩
  · refine ⟨{ h with reader := hp, buffer := (bufferInv_iff _).2 fun ho => ?_ }, rfl, ?_⟩
    · obtain ⟨htracks, hcnt⟩ := hbuf ho
      obtain ⟨hrefill, hmax, henough⟩ := htracks.refill n hn
      exact ⟨hrefill.consume (henough hp (by omega)),
        show (s.rd.buf.refill s.host.src n n).cnt - n ≤ 31 by omega⟩
    · simpa using val_lt (bitsAt s.host.src s.rd.pos n)

theorem readBits_midInv {n : Nat} (h : MidInv u s) (hn : n ≤ 32) :
    (readBits n s).Ends (fun v t => MidInv u t ∧ v < 2 ^ n) BlockInv :=
  (readBits_framed h hn).mono (fun _ _ ⟨ht, _, hv⟩ => ⟨ht, hv⟩) fun _ ⟨ht, _⟩ => ht.toBlockInv

theorem readBits_nodeCap {n : Nat} (h : MidInv u s) (hn : n ≤ 32) :
    (readBits n s).Ends (fun _ t => MidInv u t ∧ t.params.nodeCap = s.params.nodeCap) BlockInv :=
  (readBits_framed h hn).mono (fun _ t ⟨ht, hf, _⟩ => ⟨ht, by rw [hf]; rfl⟩) fun _ ⟨ht, _⟩ => ht.toBlockInv

theorem rewindBody_midInv (h : MidInv u s) : (rewindBody s).Ends (fun _ => MidInv u) BlockInv := by
  rcases rewindBody_cases s with ⟨t, hr, hrd, hf, -⟩ | ⟨t, hr, hrd, hf, -⟩ <;> rw [hr]
  · refine ⟨h.of_readFrame hf ?_ ((bufferInv_iff t).2 fun _ => ?_), ?_⟩
    · rw [readerInv, hrd]; exact Nat.zero_le _
    · rw [hrd]; exact ⟨ReadBuffer.empty_tracks _, Nat.zero_le _⟩
    · rw [hf]; exact h.writerSt
  · refine h.of_readFrame hf ?_ ?_
    · rw [hf, readerInv, State.setHost_rd, State.setRd_rd, hrd]; exact h.reader
    · rw [bufferInv, hrd]; exact nofun

/-! ### Writing -/

/-- WriteList on an OPEN writer with fewer than 8 bits pending, however it ends. -/
theorem writeList_framed {l : Bits} (hst : s.wr.st = .opened) (hp : s.wr.pend.length ≤ 7) :
    (writeList l s).Ends (fun _ t => writeFrame s t ∧ writerInv t ∧ t.wr.st = .opened)
      fun t => writeFrame s t ∧ writerInv t := by
  cases hr : writeList l s with
  | ok _ t =>
    obtain ⟨-, hpend, hopen, -, -, hf⟩ := writeList_ok hp hr
    rw [hst] at hopen
    exact ⟨hf, ⟨hpend, fun hne => absurd hopen hne⟩, hopen⟩
  | raise e t =>
    obtain ⟨-, -, hpend, -, hf⟩ := writeList_raise hp hr
    exact ⟨hf, by simp [hpend], fun _ => hpend⟩

theorem writeList_midInv (h : MidInv .opened s) (l : Bits) :
    (writeList l s).Ends (fun _ => MidInv .opened) BlockInv :=
  (writeList_framed h.writerSt h.writer.1).mono (fun _ _ ⟨hf, hw, hst⟩ => ⟨h.of_writeFrame hf hw, hst⟩)
    fun _ ⟨hf, hw⟩ => h.of_writeFrame hf hw

theorem closeOpenWriter_blockInv (h : BlockInv s) : (closeOpenWriter s).Ends (fun _ => BlockInv) BlockInv := by
  have hclosed : ∀ t, closedAfter s t → BlockInv t := by
    rintro t ⟨hwr, hf, -⟩
    exact h.of_writeFrame hf (by simp [writerInv, hwr])
  cases hr : closeOpenWriter s with
  | ok _ t => exact hclosed t (closeOpenWriter_ok hr).1
  | raise e t => exact hclosed t (closeOpenWriter_raise hr).2

theorem encodeSymbol_midInv (h : MidInv .opened s) (y : Nat) :
    (encodeSymbol y s).Ends (fun _ => MidInv .opened) BlockInv := by
  cases hy : s.code.cw.lookup y with
  | none => rw [encodeSymbol_none hy]; exact h.toBlockInv
  | some w => rw [encodeSymbol_some hy]; exact (writeList_midInv h w).bind fun _ _ ht => ht

theorem serBody_midInv (h : MidInv .opened s) : (serBody s).Ends (fun _ => MidInv .opened) BlockInv := by
  cases hroot : s.tree.root with
  | none => rw [serBody_none hroot]; exact h.toBlockInv
  | some root => rw [serBody_some hroot]; exact (writeList_midInv h _).bind fun _ _ ht => ht

/-! ### Counting, building, deriving -/

theorem sum_modify_add_one {l : List Nat} {i : Nat} (h : i < l.length) : (l.modify i (· + 1)).sum = l.sum + 1 := by
  induction l generalizing i with
  | nil => cases h
  | cons x l ih =>
    cases i with
    | zero => simp; omega
    | succ i => simp [ih (Nat.lt_of_succ_lt_succ h)]; omega

/-- R142: a chunk is counted only below `MAX_CHUNKS`. -/
theorem MidInv.bump {v : Nat} (h : MidInv u s) (hv : v < 256) (hmax : s.freq.total ≠ maxChunks s.params) :
    MidInv u (s.setFreq (s.freq.bump v)) := by
  obtain ⟨hlen, hsum, hle⟩ := h.freq
  refine { h with freq := ⟨?_, ?_, ?_⟩ }
  · simpa [Freq.bump] using hlen
  · simp [Freq.bump, sum_modify_add_one (hlen ▸ hv), hsum]
  · exact Nat.lt_of_le_of_ne hle hmax

theorem countLoop_midInv (h : MidInv u s) (fuel : Nat) : (countLoop fuel s).Ends (fun _ => MidInv u) BlockInv := by
  induction fuel generalizing s with
  | zero => exact h
  | succ fuel ih =>
    have hread := readBits_framed h (n := 8) (by decide)
    unfold countLoop
    split <;> rename_i hr <;> rw [hr] at hread <;> obtain ⟨ht, hread⟩ := hread
    · split
      · exact ht.toBlockInv
      · next hmax => exact ih (ht.bump hread.2 hmax)
    · exact ht
    · exact ht.toBlockInv

theorem freqInv_zero (h : s.freq = Freq.zero) : freqInv s := by
  have hsum : (List.replicate 256 0).sum = 0 := by rw [List.sum_replicate, smul_zero]
  rw [freqInv, h]
  exact ⟨List.length_replicate, hsum.symm, Nat.zero_le _⟩

theorem countBody_midInv (h : MidInv u s) : (countBody s).Ends (fun _ => MidInv u) BlockInv :=
  countLoop_midInv (s := s.setFreq Freq.zero) { h with freq := freqInv_zero rfl } _

/-! ### The loaded tree and the decoder over it -/

@[simp] theorem Tree.subtree_nil (root : Tree) : root.subtree [] = some root := by
  rw [Tree.subtree]

theorem treeInv_some {root : Tree} (hroot : s.tree.root = some root) :
    treeInv s ↔ s.tree.nnodes = root.nnodes ∧ root.nnodes ≤ s.params.nodeCap ∧ s.dec.st ≠ .idle := by
  rw [treeInv, hroot]

/-- R35, R36: what the decoder's state and path may be at a node of the tree. -/
def Decoder.FitsNode (d : Decoder) (node : Tree) : Prop :=
  match node with
  | .internal _ _ _ => d.st ≠ .done
  | .leaf y _ => (d.st = .ready → d.path = []) ∧ (d.st = .done → y = sentinel)

theorem decoderInv_some {root : Tree} (hroot : s.tree.root = some root) :
    decoderInv s ↔ ∃ node, root.subtree s.dec.path = some node ∧ s.dec.FitsNode node := by
  rw [decoderInv, hroot]
  cases hsub : root.subtree s.dec.path with
  | none => simp [hsub]
  | some node => cases node <;> simp [hsub, Decoder.FitsNode]

theorem Decoder.fitsNode_failed (path : Bits) (node : Tree) : Decoder.FitsNode { st := .failed, path := path } node := by
  cases node <;> simp [FitsNode]

theorem Decoder.fitsNode_root {st : DecState} (hst : st = .ready) (node : Tree) :
    Decoder.FitsNode { st := st, path := [] } node := by
  cases node <;> simp [FitsNode, hst]

/-- A tree that fits the store enters it (R32): the code table is empty and the decoder READY at the root. -/
theorem MidInv.loadTree {root : Tree} {k : Nat} (h : MidInv u s) (hk : k = root.nnodes) (hcap : k ≤ s.params.nodeCap) :
    MidInv u (s.loadTree (some root) k) :=
  { h with
    tree := (treeInv_some rfl).2 ⟨hk, hk ▸ hcap, nofun⟩
    code := rfl
    decoder := (decoderInv_some rfl).2 ⟨root, root.subtree_nil, Decoder.fitsNode_root rfl root⟩ }

/-- R175: a failed load leaves an empty store. -/
theorem BlockInv.failLoad (h : BlockInv s) : BlockInv s.failLoad :=
  { h with tree := ⟨rfl, rfl, rfl⟩, code := rfl, decoder := rfl }

theorem MidInv.builtTree (h : MidInv u s) : MidInv u s.builtTree := by
  obtain ⟨t, ht, hnodes⟩ := buildTree_some s.params.tieBreak h.freq.1
  unfold State.builtTree
  rw [ht]
  exact h.loadTree rfl (hnodes.trans h.params.2)

theorem deriveBody_midInv (h : MidInv u s) : (deriveBody s).Ends (fun _ => MidInv u) BlockInv := by
  cases hroot : s.tree.root with
  | none => rw [deriveBody_none hroot]; exact h.toBlockInv
  | some root =>
    rw [deriveBody_some hroot]
    exact { h with code := by simp [codeInv, hroot] }

/-! ### Reading a tree -/

/-- `Des()` from a count within `NODE_CAP` answers a count within it (R174). -/
theorem desTree_midInv {fuel k : Nat} (h : MidInv u s) (hk : k ≤ s.params.nodeCap) :
    (desTree fuel k s).Ends (fun x t => MidInv u t ∧ x.2 ≤ t.params.nodeCap) BlockInv := by
  induction fuel generalizing k s with
  | zero => exact h.toBlockInv
  | succ fuel ih =>
    unfold desTree
    split
    · exact h.toBlockInv
    · next hfull =>
      refine (readBits_nodeCap (n := 1) h (by decide)).bind fun m t ⟨ht, htc⟩ => ?_
      split
      · refine (ih ht (by omega)).bind fun left v ⟨hv, hleft⟩ => ?_
        exact (ih hv hleft).bind fun right w hw => hw
      · refine (readBits_nodeCap (n := 9) ht (by decide)).bind fun y v ⟨hv, hvc⟩ => ?_
        split
        · exact ⟨hv, show k + 1 ≤ v.params.nodeCap by omega⟩
        · exact hv.toBlockInv

theorem deserBody_midInv (h : MidInv u s) : (deserBody s).Ends (fun _ => MidInv u) BlockInv := by
  have hdes := desTree_midInv h (fuel := s.params.nodeCap + 1) (Nat.zero_le _)
  rcases deserBody_cases s with ⟨x, t, hd, hr⟩ | ⟨e, t, hd, hr⟩ <;> rw [hr] <;> rw [hd] at hdes
  · obtain ⟨ht, hcap⟩ := hdes
    obtain ⟨-, -, -, hcount, -⟩ := desTree_ok hd
    exact ht.loadTree (by omega) hcap
  · exact BlockInv.failLoad hdes

/-! ### Decoding -/

/-- R36: a READY decoder is at an internal node, unless the root itself is a leaf. -/
theorem BlockInv.ready_path {root : Tree} (h : BlockInv s) (hroot : s.tree.root = some root) (hst : s.dec.st = .ready)
    (hleaf : root.isLeaf = false) : ∃ w l r, root.subtree s.dec.path = some (.internal w l r) := by
  obtain ⟨node, hsub, hfits⟩ := (decoderInv_some hroot).1 h.decoder
  cases node with
  | internal w l r => exact ⟨w, l, r, hsub⟩
  | leaf y w =>
    rw [hfits.1 hst, Tree.subtree, Option.some.injEq] at hsub
    rw [hsub] at hleaf
    cases hleaf

/-- The rule for every write of the decoder over a loaded tree. -/
theorem MidInv.setDec {root node : Tree} {d : Decoder} (h : MidInv u s) (hroot : s.tree.root = some root)
    (hst : d.st ≠ .idle) (hsub : root.subtree d.path = some node) (hfits : d.FitsNode node) : MidInv u (s.setDec d) := by
  obtain ⟨hcount, hcap, -⟩ := (treeInv_some hroot).1 h.tree
  exact { h with
    tree := (treeInv_some (s := s.setDec d) hroot).2 ⟨hcount, hcap, hst⟩
    decoder := (decoderInv_some (s := s.setDec d) hroot).2 ⟨node, hsub, hfits⟩ }

theorem MidInv.failDec {root : Tree} (h : MidInv u s) (hroot : s.tree.root = some root) : MidInv u s.failDec := by
  obtain ⟨node, hsub, -⟩ := (decoderInv_some hroot).1 h.decoder
  exact h.setDec hroot nofun hsub (Decoder.fitsNode_failed _ node)

/-- Where `reachNode` starts: the READY decoder has just moved to `node`. Only its own clause may not hold yet, so the
invariant is said of the state with the decoder FAILED. -/
structure Arrived (u : UnitState) (root node : Tree) (s : State) : Prop where
  failed : MidInv u s.failDec
  root_eq : s.tree.root = some root
  ready : s.dec.st = .ready
  subtree_eq : root.subtree s.dec.path = some node

theorem Arrived.setDec {root node node' : Tree} {d : Decoder} (h : Arrived u root node s) (hst : d.st ≠ .idle)
    (hsub : root.subtree d.path = some node') (hfits : d.FitsNode node') : MidInv u (s.setDec d) :=
  show MidInv u (s.failDec.setDec d) from h.failed.setDec h.root_eq hst hsub hfits

theorem failDec_writeFrame (hf : writeFrame s t) : writeFrame s.failDec t.failDec := by
  unfold writeFrame at *
  rw [hf]
  rfl

theorem Arrived.of_writeFrame {root node : Tree} (h : Arrived u root node s) (hf : writeFrame s t) (hw : writerInv t)
    (hst : t.wr.st = u) : Arrived u root node t where
  failed := ⟨h.failed.toBlockInv.of_writeFrame (failDec_writeFrame hf) hw, hst⟩
  root_eq := by rw [hf]; exact h.root_eq
  ready := by rw [hf]; exact h.ready
  subtree_eq := by rw [hf]; exact h.subtree_eq

/-- R210: a data symbol goes to an OPEN writer only; every error leaves the decoder FAILED. -/
theorem emitSymbol_midInv {root node : Tree} (h : Arrived u root node s) (y : Symbol) :
    (emitSymbol y s).Ends (fun _ => MidInv u) BlockInv := by
  have hwrite : ((writerTakes s).bind fun _ s => writeBits 8 y.val s).Ends
      (fun _ => Arrived u root node) fun t => BlockInv t.failDec := by
    refine preCheck_ends h.failed.toBlockInv fun hopen => ?_
    have hst := hopen List.mem_cons_self
    have hu : u = .opened := h.failed.writerSt.symm.trans hst
    exact (writeList_framed hst h.failed.writer.1).mono
      (fun _ t ⟨hf, hw, ht⟩ => h.of_writeFrame hf hw (ht.trans hu.symm))
      fun t ⟨hf, hw⟩ => h.failed.toBlockInv.of_writeFrame (failDec_writeFrame hf) hw
  refine hwrite.onRaise.bind fun _ t ht => ?_
  exact ht.setDec (d := { t.dec with path := [] }) (by simp [ht.ready]) root.subtree_nil
    (Decoder.fitsNode_root ht.ready root)

theorem reachNode_midInv {root node : Tree} (h : Arrived u root node s) :
    (reachNode node s).Ends (fun _ => MidInv u) BlockInv := by
  have hst : s.dec.st ≠ .idle := by simp [h.ready]
  cases node with
  | internal w l r => exact h.setDec (d := s.dec) hst h.subtree_eq (by simp [Decoder.FitsNode, h.ready])
  | leaf y w =>
    unfold reachNode
    dsimp only
    split
    · next hy => exact h.setDec (d := { s.dec with st := .done }) nofun h.subtree_eq (by simp [Decoder.FitsNode, hy])
    · exact emitSymbol_midInv h y

/-- R10, R36: descending from where the invariant puts the decoder reaches a node. -/
theorem MidInv.descended {root : Tree} (h : MidInv u s) (hroot : s.tree.root = some root) (hst : s.dec.st = .ready)
    (hleaf : root.isLeaf = false) (b : Bool) : ∃ node, Arrived u root node (s.descended b) := by
  obtain ⟨w, l, r, hsub⟩ := h.ready_path hroot hst hleaf
  have hchild : ∃ node, root.subtree (s.dec.path ++ [b]) = some node := by
    rw [Tree.subtree_append, hsub, Option.bind_some]
    cases b with
    | false => exact ⟨l, by rw [Tree.subtree, Tree.subtree_nil]⟩
    | true => exact ⟨r, by rw [Tree.subtree, Tree.subtree_nil]⟩
  obtain ⟨node, hnode⟩ := hchild
  exact ⟨node, h.setDec hroot nofun hnode (Decoder.fitsNode_failed _ node), hroot, hst, hnode⟩

/-- One decoding step (R210): under the invariant `subtree` is never asked past a leaf. -/
theorem decBody_midInv (h : MidInv u s) :
    (decBody s).Ends (fun ev t => (∃ e, ev = some e) ∧ MidInv u t) BlockInv := by
  cases hroot : s.tree.root with
  | none => rw [decBody_none hroot]; exact h.toBlockInv
  | some root =>
    by_cases hst : s.dec.st = .ready
    · cases hleaf : root.isLeaf with
      | true => rw [decBody_leafRoot hroot hst hleaf]; exact (h.failDec hroot).toBlockInv
      | false =>
        rw [decBody_ready hroot hst hleaf]
        have hroot_read : ∀ t, readFrame s t → t.tree.root = some root := fun t hf => by rw [hf]; exact hroot
        have hread := (readBits_framed h (n := 1) (by decide)).mono (fun _ _ ht => ht)
          fun t ⟨ht, hf⟩ => (ht.failDec (hroot_read t hf)).toBlockInv
        refine hread.onRaise.bind fun b t ⟨ht, hf, _⟩ => ?_
        obtain ⟨node, hnode⟩ := ht.descended (hroot_read t hf) (by rw [hf]; exact hst) hleaf (b != 0)
        rw [hnode.subtree_eq]
        exact (reachNode_midInv hnode).bind fun e _ hv => ⟨⟨e, rfl⟩, hv⟩
    · rw [decBody_notReady hroot hst]; exact h.toBlockInv

theorem decodeLoop_midInv (h : MidInv u s) (fuel e : Nat) :
    (decodeLoop fuel e s).Ends (fun k t => (∃ n, k = some n) ∧ MidInv u t) BlockInv := by
  induction fuel generalizing e s with
  | zero => exact h.toBlockInv
  | succ fuel ih =>
    refine (decBody_midInv h).bind ?_
    rintro _ t ⟨⟨ev, rfl⟩, ht⟩
    cases ev with
    | continued => exact ih ht e
    | emitted y => exact ih ht (e + 1)
    | done => exact ⟨⟨e, rfl⟩, ht⟩

/-! ### COMPRESS and DECOMPRESS -/

theorem encodeLoop_midInv (h : MidInv .opened s) (fuel k : Nat) :
    (encodeLoop fuel k s).Ends (fun _ => MidInv .opened) BlockInv := by
  induction fuel generalizing k s with
  | zero => exact h
  | succ fuel ih =>
    have hread := readBits_framed h (n := 8) (by decide)
    unfold encodeLoop
    split <;> rename_i hr <;> rw [hr] at hread <;> obtain ⟨ht, -⟩ := hread
    · exact (encodeSymbol_midInv ht _).bind fun _ _ hv => ih hv _
    · exact ht
    · exact ht.toBlockInv

/-- R192: the steps of COMPRESS in order. -/
theorem compressBody_blockInv (h : MidInv .opened s) : (compressBody s).Ends (fun _ => BlockInv) BlockInv :=
  (countBody_midInv (h.setMacroStep 1)).bind fun _ _ h =>
  (rewindBody_midInv ((h.setMacroStep 2).builtTree.setMacroStep 3)).bind fun _ _ h =>
  (writeList_midInv (h.setMacroStep 4) _).bind fun _ _ h =>
  (serBody_midInv (h.setMacroStep 5)).bind fun _ _ h =>
  (deriveBody_midInv (h.setMacroStep 6)).bind fun _ _ h =>
  (encodeLoop_midInv (h.setMacroStep 7) _ 0).bind fun _ _ h =>
  (encodeSymbol_midInv (h.setMacroStep 8) _).bind fun _ _ h =>
  (closeOpenWriter_blockInv (h.setMacroStep 9).toBlockInv).bind fun _ _ h => h

theorem checkMagic_midInv (h : MidInv u s) : (checkMagic s).Ends (fun _ => MidInv u) BlockInv := by
  have hread := readBits_midInv h (n := 32) (by decide)
  unfold checkMagic
  split <;> rename_i hr <;> rw [hr] at hread
  · split
    · exact hread.1
    · exact hread.1.toBlockInv
  · exact hread
  · exact hread

/-- R213: the steps of DECOMPRESS in order. -/
theorem decompressBody_blockInv (h : MidInv u s) :
    (decompressBody s).Ends (fun k t => (∃ n, k = some n) ∧ BlockInv t) BlockInv := by
  refine (checkMagic_midInv (h.setMacroStep 1)).bind fun _ _ h => ?_
  refine (deserBody_midInv (h.setMacroStep 2)).bind fun _ _ h => ?_
  refine (decodeLoop_midInv ((h.setMacroStep 3).setMacroStep 4) _ 0).bind ?_
  rintro _ _ ⟨⟨n, rfl⟩, h⟩
  exact (closeOpenWriter_blockInv (h.setMacroStep 5).toBlockInv).bind fun _ _ h => ⟨⟨n, rfl⟩, h⟩

end

end Sys2Proof.Machine
end

section
/-! PROOF. O59, O58 and O6. A command that keeps `BlockInv` answers, and its answer meets the clause `BlockInv` leaves
out; so under the invariant every step gives a next state that meets it again. -/

namespace Sys2Proof.Machine

section
variable {s : State}

/-! ### Answering -/

/-- The command answers, and its answer is one the invariant admits. -/
def Answers (o : Host.Outcome State Fault Refusal) : Prop := ∃ t, o = .next t ∧ StateInv t

theorem BlockInv.answerError (h : BlockInv s) (e : Err) : StateInv (s.answerError e) :=
  stateInv_iff.2 ⟨{ h with }, answerInv_answerError e s⟩

theorem BlockInv.answer {a : Answer} (h : BlockInv s) (ha : a.Valid) : StateInv (s.answer a) :=
  stateInv_iff.2 ⟨{ h with }, answerInv_answer s ha⟩

theorem finish_answers {r : Res Answer} (h : r.Ends (fun a t => a.Valid ∧ BlockInv t) BlockInv) : Answers (finish r) := by
  cases r with
  | ok a t => exact ⟨_, rfl, h.2.answer h.1⟩
  | raise e t => exact ⟨_, rfl, BlockInv.answerError h e⟩

theorem finishDefined_answers {r : Res (Option Answer)}
    (h : r.Ends (fun o t => (∃ a, o = some a ∧ a.Valid) ∧ BlockInv t) BlockInv) : Answers (finishDefined r) := by
  cases r with
  | ok o t =>
    obtain ⟨⟨a, rfl, ha⟩, ht⟩ := h
    exact ⟨_, rfl, ht.answer ha⟩
  | raise e t => exact ⟨_, rfl, BlockInv.answerError h e⟩

/-- A piece that keeps the invariant, then an answer with a result word (R82). -/
theorem Res.Ends.respond {α : Type} {r : Res α} {f : α → State → Word} (h : r.Ends (fun _ => BlockInv) BlockInv) :
    (r.bind fun a t => .ok (Answer.value (f a t)) t).Ends (fun a t => a.Valid ∧ BlockInv t) BlockInv :=
  h.bind fun _ _ ht => ⟨Answer.value_valid _, ht⟩

theorem Res.Ends.forgetWriter {α : Type} {r : Res α} {u : UnitState} (h : r.Ends (fun _ => MidInv u) BlockInv) :
    r.Ends (fun _ => BlockInv) BlockInv :=
  h.mono (fun _ _ ht => ht.toBlockInv) fun _ ht => ht

/-! ### The commands -/

theorem legalWidth_iff {n : Nat} : legalWidth n = true ↔ 1 ≤ n ∧ n ≤ 32 := by simp [legalWidth]

theorem execRdRead_answers (h : BlockInv s) (n : Nat) : Answers (execRdRead n s) := by
  refine finish_answers (preCheck_ends h fun _ => ?_)
  split
  · next hn =>
    exact (readBits_midInv h.mid (legalWidth_iff.1 hn).2).bind fun _ _ ht => ⟨Answer.value_valid _, ht.1.toBlockInv⟩
  · exact h

theorem execRdReset_answers (h : BlockInv s) : Answers (execRdReset s) :=
  finish_answers (preCheck_ends h fun _ => (rewindBody_midInv h.mid).forgetWriter.respond)

theorem execRdClose_answers (h : BlockInv s) : Answers (execRdClose s) := by
  have hclosed : ∀ r, r.pos = s.rd.pos → r.st = .closed → BlockInv ((sourceDraw s).2.setRd r) := fun r hp hst =>
    { h with reader := show r.pos ≤ _ from hp ▸ h.reader, buffer := fun ho => by cases hst.symm.trans ho }
  refine finish_answers ?_
  split
  · exact h
  · exact hclosed _ rfl rfl
  · split
    · exact hclosed _ rfl rfl
    · exact ⟨Answer.value_valid _, hclosed _ rfl rfl⟩

theorem execWrWrite_answers (h : BlockInv s) (n : Nat) (value : Word) : Answers (execWrWrite n value s) := by
  refine finish_answers (preCheck_ends h fun hopen => ?_)
  split
  · exact (writeList_midInv ⟨h, hopen List.mem_cons_self⟩ _).forgetWriter.respond
  · exact h

theorem execWrClose_answers (h : BlockInv s) : Answers (execWrClose s) := by
  refine finish_answers ?_
  split
  · exact h
  · exact { h with writer := ⟨Nat.zero_le _, fun _ => rfl⟩ }
  · exact (closeOpenWriter_blockInv h).respond

theorem execFreqCount_answers (h : BlockInv s) : Answers (execFreqCount s) :=
  finish_answers (preCheck_ends h fun _ => (countBody_midInv h.mid).forgetWriter.respond)

theorem execTreeBuild_answers (h : BlockInv s) : Answers (execTreeBuild s) :=
  finish_answers ⟨Answer.value_valid 0, h.mid.builtTree.toBlockInv⟩

theorem execCodeDerive_answers (h : BlockInv s) : Answers (execCodeDerive s) :=
  finish_answers (deriveBody_midInv h.mid).forgetWriter.respond

theorem execTreeSer_answers (h : BlockInv s) : Answers (execTreeSer s) :=
  finish_answers (preCheck_ends h fun hopen => (serBody_midInv ⟨h, hopen List.mem_cons_self⟩).forgetWriter.respond)

theorem execTreeDeser_answers (h : BlockInv s) : Answers (execTreeDeser s) :=
  finish_answers (preCheck_ends h fun _ => (deserBody_midInv h.mid).forgetWriter.respond)

theorem execEncSym_answers (h : BlockInv s) (y : Nat) : Answers (execEncSym y s) := by
  refine finish_answers (preCheck_ends h fun hopen => ?_)
  split
  · exact h
  · split
    · exact h
    · exact (encodeSymbol_midInv ⟨h, hopen List.mem_cons_self⟩ y).forgetWriter.respond

theorem execCompress_answers (h : BlockInv s) : Answers (execCompress s) :=
  finish_answers (preCheck_ends h fun hopen => (compressBody_blockInv ⟨h, hopen (by decide)⟩).respond)

theorem execDecStep_answers (h : BlockInv s) : Answers (execDecStep s) := by
  refine finishDefined_answers (preCheck_ends h fun _ => (decBody_midInv h.mid).bind ?_)
  rintro _ t ⟨⟨e, rfl⟩, ht⟩
  exact ⟨⟨_, rfl, Answer.ofEvent_valid e⟩, ht.toBlockInv⟩

theorem execDecompress_answers (h : BlockInv s) : Answers (execDecompress s) := by
  refine finishDefined_answers (preCheck_ends h fun _ => (decompressBody_blockInv h.mid).bind ?_)
  rintro _ t ⟨⟨n, rfl⟩, ht⟩
  exact ⟨⟨_, rfl, Answer.value_valid _⟩, ht⟩

theorem exec_answers (h : BlockInv s) (i : Instr) : Answers (exec i s) := by
  cases i with
  | rdRead n => exact execRdRead_answers h n
  | rdReset => exact execRdReset_answers h
  | rdClose => exact execRdClose_answers h
  | wrWrite n value => exact execWrWrite_answers h n value
  | wrClose => exact execWrClose_answers h
  | freqCount => exact execFreqCount_answers h
  | treeBuild => exact execTreeBuild_answers h
  | codeDerive => exact execCodeDerive_answers h
  | treeSer => exact execTreeSer_answers h
  | treeDeser => exact execTreeDeser_answers h
  | encSym y => exact execEncSym_answers h y
  | compress => exact execCompress_answers h
  | decStep => exact execDecStep_answers h
  | decompress => exact execDecompress_answers h

/-! ### Reset and the step -/

/-- The reset values meet the invariant with any source, any draws and any legal parameters. -/
theorem resetValues_stateInv {p : Params} (hp : 1 ≤ p.cntW ∧ 513 ≤ p.nodeCap) (host : HostSide) :
    StateInv { State.reset with params := p, host := host } :=
  stateInv_iff.2 ⟨{
    params := hp
    reader := Nat.zero_le _
    buffer := (bufferInv_iff _).2 fun _ => ⟨ReadBuffer.empty_tracks _, Nat.zero_le _⟩
    writer := ⟨Nat.zero_le _, fun _ => rfl⟩
    freq := freqInv_zero rfl
    tree := ⟨rfl, rfl, rfl⟩
    code := rfl
    decoder := rfl }, show answerInv State.reset by decide⟩

theorem runCommand_answers (h : BlockInv s) : Answers (runCommand s) := by
  unfold runCommand
  split
  · exact exec_answers h _
  · next e _ => cases e <;> exact ⟨_, rfl, h.answerError _⟩

/-- Under the invariant every step gives a next state, and that state meets it again. -/
theorem step_answers (h : StateInv s) : Answers (step s) := by
  obtain ⟨hblock, -⟩ := stateInv_iff.1 h
  unfold step
  split
  · exact ⟨s, rfl, h⟩
  · exact ⟨_, rfl, resetValues_stateInv hblock.params _⟩
  · exact runCommand_answers (s := acceptCommand _ _ _ s) { hblock with }

end

/-- Settles O59: the step's next state is the one `step_answers` gives. -/
theorem invariantKeptByStep : Obligations.InvariantKeptByStep := by
  intro s t h hstep
  obtain ⟨t', hnext, ht'⟩ := step_answers h
  rw [hstep, Host.Outcome.next.injEq] at hnext
  exact hnext ▸ ht'

/-- Settles O58: the defaults of R6 are legal parameters. -/
theorem invariantAtReset : Obligations.InvariantAtReset :=
  resetValues_stateInv (p := Config.defaults) ⟨by decide, by decide⟩ State.reset.host

/-- Settles O6: each value is the one `hardReset` or `State.reset` writes. -/
theorem idleAndHardReset : Obligations.IdleAndHardReset := by
  refine ⟨fun s hplan => ?_, fun s src rest hplan => ⟨hardReset src rest s, ?_, ?_⟩, ?_⟩
  · rw [step, hplan]; rfl
  · rw [step, hplan]
  · exact ⟨rfl, rfl, rfl, rfl, rfl, rfl, rfl, rfl, rfl, rfl, rfl⟩
  · exact ⟨rfl, rfl, rfl, rfl, rfl, rfl, rfl, rfl, rfl, rfl⟩

end Sys2Proof.Machine
end

section
/-! PROOF. O15 and O14, RD.READ (R101, R102): how it ends where the source answers, and where it is refused before that;
and R53's arithmetic, which cuts the bits at a cursor out of the bytes that hold them. -/

namespace Sys2Proof.Machine

/-! ### RD.READ -/

section
variable {n : Nat} {s : State}

/-- A legal read on an OPEN reader is its ReadBits. -/
theorem execRdRead_of_open (hst : s.rd.st = .opened) (hn : 1 ≤ n ∧ n ≤ 32) :
    execRdRead n s = finish ((readBits n s).bind fun v t => .ok (.value (resultWord v)) t) := by
  rw [execRdRead, preCheck_of_open (fun _ => hst) (by simp), Res.bind_ok, if_pos (legalWidth_iff.2 hn)]

theorem execRdRead_complete (hst : s.rd.st = .opened) (hdraw : s.host.srcErr.draw.1 = false) (hn : 1 ≤ n ∧ n ≤ 32)
    (hleft : s.rd.pos + n ≤ 8 * s.host.src.length) :
    execRdRead n s = .next ((((sourceDraw s).2.refilled n).advanced n).answer
      (.value (resultWord (val (bitsAt s.host.src s.rd.pos n))))) := by
  rw [execRdRead_of_open hst hn]
  rcases readBits_cases n s with ⟨h, -⟩ | ⟨-, h, -⟩ | ⟨-, -, hr⟩
  · rw [hdraw] at h; cases h
  · omega
  · rw [hr]; rfl

theorem execRdRead_endOfStream (hst : s.rd.st = .opened) (hdraw : s.host.srcErr.draw.1 = false) (hn : 1 ≤ n ∧ n ≤ 32)
    (hleft : 8 * s.host.src.length < s.rd.pos + n) :
    execRdRead n s = .next (((sourceDraw s).2.refilled n).answerError .endOfStream) := by
  rw [execRdRead_of_open hst hn]
  rcases readBits_cases n s with ⟨h, -⟩ | ⟨-, -, hr⟩ | ⟨-, h, -⟩
  · rw [hdraw] at h; cases h
  · rw [hr]; rfl
  · omega

/-- R101: RD.READ answers an error other than END_OF_STREAM with the cursor where it was, or it starts on an OPEN reader
with a legal width and a source that answers: then it is `execRdRead_complete` or `execRdRead_endOfStream`. -/
theorem execRdRead_cases (n : Nat) (s : State) :
    (∃ (e : Err) (t : State), execRdRead n s = .next (t.answerError e) ∧ e ≠ .endOfStream ∧ t.rd.pos = s.rd.pos) ∨
    (s.rd.st = .opened ∧ (1 ≤ n ∧ n ≤ 32) ∧ s.host.srcErr.draw.1 = false) := by
  cases hpre : preCheck [.rd] s with
  | raise e t =>
    obtain ⟨rfl, he⟩ := preCheck_eq_raise hpre
    refine .inl ⟨e, t, ?_, ?_, rfl⟩
    · rw [execRdRead, hpre]; rfl
    · rintro rfl; simp at he
  | ok _ t =>
    obtain ⟨rfl, hopen, -⟩ := preCheck_eq_ok.1 hpre
    have hst := hopen List.mem_cons_self
    by_cases hn : 1 ≤ n ∧ n ≤ 32
    · cases hdraw : t.host.srcErr.draw.1 with
      | false => exact .inr ⟨hst, hn, rfl⟩
      | true =>
        refine .inl ⟨.sourceIO, (sourceDraw t).2.failRd, ?_, nofun, rfl⟩
        rw [execRdRead_of_open hst hn, readBits, sourceDraw_fst, if_pos hdraw]
        rfl
    · refine .inl ⟨.invalidArgument, t, ?_, nofun, rfl⟩
      rw [execRdRead, hpre, Res.bind_ok, if_neg (mt legalWidth_iff.1 hn)]
      rfl

end

/-! ### The answer -/

theorem Answer.value_rstat (rval : Word) : (Answer.value rval).rstat = 0 :=
  show rstatWord 0 0 0 0 = 0 by decide

theorem Err.rstat_ne_zero (e : Err) : e.rstat ≠ 0 := by cases e <;> decide

/-- R80: END_OF_STREAM alone has status 1. -/
theorem Err.rstat_eq_one {e : Err} (h : e.rstat = 1) : e = .endOfStream := by revert h; cases e <;> decide

/-- A value of at most 32 bits is the result word itself (R82). -/
theorem resultWord_val {l : Bits} (h : l.length ≤ 32) : (resultWord (val l)).toNat = val l := by
  have hlt : val l < 2 ^ 32 := (val_lt l).trans_le (Nat.pow_le_pow_right (by decide) h)
  rw [resultWord, BitVec.toNat_ofNat, Nat.mod_eq_of_lt hlt]

/-- Settles O15: of the ways an RD.READ ends, one returns bits and one is END_OF_STREAM. -/
theorem readIsAllOrNothing : Obligations.ReadIsAllOrNothing := by
  refine ⟨fun n s t h => ?_, fun n s hst hdraw h1 h32 hleft =>
    ⟨_, execRdRead_endOfStream hst hdraw ⟨h1, h32⟩ hleft, rfl, rfl, rfl, hst⟩⟩
  change execRdRead n s = .next t at h
  rcases execRdRead_cases n s with ⟨e, u, hr, he, hpos⟩ | ⟨hst, hn, hdraw⟩
  · cases hr.symm.trans h
    exact ⟨fun h0 => absurd h0 e.rstat_ne_zero, fun _ => ⟨hpos, rfl⟩, fun h1 => absurd (Err.rstat_eq_one h1) he⟩
  · by_cases hleft : s.rd.pos + n ≤ 8 * s.host.src.length
    · cases (execRdRead_complete hst hdraw hn hleft).symm.trans h
      rw [State.answer_rstat, Answer.value_rstat]
      exact ⟨fun _ => ⟨rfl, hleft, resultWord_val (by simpa using hn.2)⟩, fun h0 => absurd rfl h0, nofun⟩
    · have hleft := Nat.lt_of_not_le hleft
      cases (execRdRead_endOfStream hst hdraw hn hleft).symm.trans h
      exact ⟨fun h0 => absurd h0 (Err.rstat_ne_zero _), fun _ => ⟨rfl, rfl⟩,
        fun _ => ⟨hst, hn.1, hn.2, hdraw, hleft⟩⟩

/-! ### Values across bytes (R53) -/

/-- R51, R53: the integer of whole bytes is the value of their bits. -/
theorem bytesValue_eq_val {src : List Byte} {q k : Nat} (h : q + k ≤ src.length) :
    bytesValue src q k = val (bitsAt src (8 * q) (8 * k)) := by
  induction k with
  | zero => simp [bytesValue, bitsAt]
  | succ k ih =>
    have hlt : q + k < src.length := h
    have hbyte : src[q + k]? = some src[q + k] := List.getElem?_eq_getElem hlt
    have hstep : bytesValue src q (k + 1) = 256 * bytesValue src q k + src[q + k].toNat := by
      simp only [bytesValue, List.take_add_one, List.getElem?_drop, hbyte, Option.toList_some, List.foldl_append,
        List.foldl_cons, List.foldl_nil]
    have hval : val (bitsAt src (8 * q + 8 * k) 8) = src[q + k].toNat := by
      rw [← Nat.mul_add, bitsAt_byte hbyte, val_bitsOf, Nat.mod_eq_of_lt src[q + k].isLt]
    rw [hstep, ih (Nat.le_of_lt hlt), Nat.mul_add, bitsAt_add, val_append, hval, bitsAt_length]
    ring

/-- The value of a part of a bit list, cut out of the value of the whole. -/
theorem val_middle (a b c : Bits) : val (a ++ b ++ c) / 2 ^ c.length % 2 ^ b.length = val b := by
  rw [val_append, Nat.mul_comm, Nat.mul_add_div (Nat.two_pow_pos _), Nat.div_eq_of_lt (val_lt c), Nat.add_zero,
    val_append, Nat.mul_add_mod_self_right, Nat.mod_eq_of_lt (val_lt b)]

/-- Settles O14: the bits of the `k` bytes are `r` bits before the cursor, the `n` bits read, and the rest. -/
theorem readAcrossByteBoundaries : Obligations.ReadAcrossByteBoundaries := by
  intro n s hst hdraw h1 h32 hleft q r k
  have hq : 8 * q + r = s.rd.pos := Nat.div_add_mod _ _
  have hr : r < 8 := Nat.mod_lt _ (by decide)
  have hk : k = (r + n + 7) / 8 := rfl
  refine ⟨⟨by omega, by omega, fun hn => by split <;> omega⟩, _, execRdRead_complete hst hdraw ⟨h1, h32⟩ hleft, ?_⟩
  have hbits : bitsAt s.host.src (8 * q) (8 * k) = bitsAt s.host.src (8 * q) r ++ bitsAt s.host.src s.rd.pos n ++
      bitsAt s.host.src (8 * q + (r + n)) (8 * k - r - n) := by
    rw [← hq, ← bitsAt_add, ← bitsAt_add]
    congr 1
    omega
  have hcut := val_middle (bitsAt s.host.src (8 * q) r) (bitsAt s.host.src s.rd.pos n)
    (bitsAt s.host.src (8 * q + (r + n)) (8 * k - r - n))
  rw [← hbits, bitsAt_length, bitsAt_length] at hcut
  rw [bytesValue_eq_val (by omega), hcut]
  exact resultWord_val (by simpa using h32)

end Sys2Proof.Machine
end

section
/-! PROOF. O24 and O41, frames. WR.WRITE, WR.CLOSE, TREE.SER and ENC.SYM end, however they answer, in the `writeFrame` of
the state they started in; FREQ.COUNT ends in its `countFrame`; TREE.DESER in its `readFrame`, but for the tree, the code
table and the decoder. What they keep of the host side is O12. -/

namespace Sys2Proof.Machine

/-- A command that is its PreCheck and then `k` ends in the state of its PreCheck or of `k`. -/
theorem preCheck_bind_state {α : Type} {P : State → Prop} {u : List StreamUnit} {s : State}
    {k : PUnit → State → Res α} (hs : P s) (hk : P (k ⟨⟩ s).state) : P ((preCheck u s).bind k).state := by
  cases hr : preCheck u s with
  | ok _ t => obtain ⟨rfl, -⟩ := preCheck_eq_ok.1 hr; exact hk
  | raise e t => obtain ⟨rfl, -⟩ := preCheck_eq_raise hr; exact hs

/-- Computing the answer at the end of a command touches no state. -/
@[simp] theorem Res.respond_state {α : Type} (r : Res α) (f : α → State → Answer) :
    (r.bind fun a t => .ok (f a t) t).state = r.state := by
  cases r <;> rfl

/-- The rule for the end of a command: what no answer touches holds after it where it held before. -/
theorem finish_state_of {P : State → Prop} {t : State} {r : Res Answer} (ht : finish r = .next t) (h : P r.state)
    (hok : ∀ a u, P u → P (u.answer a)) (herr : ∀ e u, P u → P (u.answerError e)) : P t := by
  rw [← finish_next.1 ht]
  cases r with
  | ok a u => exact hok a u h
  | raise e u => exact herr e u h

/-! ### The writer's operations, however they end -/

section
variable (s : State)

theorem sinkPut_writeFrame (b : Byte) : writeFrame s (sinkPut b s).2 := by
  cases hd : s.host.sinkErr.draw.1 with
  | false => exact (sinkPut_accepted (b := b) hd).2.1
  | true => exact (sinkPut_refused (b := b) hd).2.1

theorem emitByte_writeFrame (b : Byte) : writeFrame s (emitByte b s).state := by
  have hput := sinkPut_writeFrame s b
  unfold emitByte
  split
  · exact writeFrame_trans hput rfl
  · exact hput

theorem writeBit_writeFrame (b : Bool) : writeFrame s (writeBit b s).state := by
  unfold writeBit
  split
  · have hemit := emitByte_writeFrame (s.setPend (s.wr.pend ++ [b])) (byteOf (s.wr.pend ++ [b]))
    exact Res.bind_state_of (writeFrame_trans (t := s.setPend (s.wr.pend ++ [b])) rfl hemit) fun _ _ ht =>
      writeFrame_trans ht rfl
  · exact rfl

theorem writeList_writeFrame (l : Bits) : writeFrame s (writeList l s).state := by
  induction l generalizing s with
  | nil => exact rfl
  | cons b l ih => exact Res.bind_state_of (writeBit_writeFrame s b) fun _ t ht => writeFrame_trans ht (ih t)

theorem closeOpenWriter_writeFrame : writeFrame s (closeOpenWriter s).state := by
  cases hr : closeOpenWriter s with
  | ok _ t => exact (closeOpenWriter_ok hr).1.2.1
  | raise e t => exact (closeOpenWriter_raise hr).2.2.1

theorem serBody_writeFrame : writeFrame s (serBody s).state := by
  cases hr : s.tree.root with
  | none => rw [serBody_none hr]; exact rfl
  | some u => rw [serBody_some hr]; exact Res.bind_state_of (writeList_writeFrame s u.ser) fun _ _ ht => ht

theorem encodeSymbol_writeFrame (y : Nat) : writeFrame s (encodeSymbol y s).state := by
  cases hr : s.code.cw.lookup y with
  | none => rw [encodeSymbol_none hr]; exact rfl
  | some w => rw [encodeSymbol_some hr]; exact Res.bind_state_of (writeList_writeFrame s w) fun _ _ ht => ht

end

/-! ### The writer's commands -/

/-- What O24 says of the reader and the stores. -/
def OutsideWriterKept (s t : State) : Prop := readerKept s t ∧ storesKept s t

theorem OutsideWriterKept.of_finish {s t : State} {r : Res Answer} (ht : finish r = .next t)
    (h : writeFrame s r.state) : OutsideWriterKept s t := by
  refine finish_state_of ht ?_ (fun _ _ hu => hu) fun _ _ hu => hu
  rw [h]
  exact ⟨⟨rfl, rfl⟩, rfl, rfl, rfl, rfl⟩

section
variable {s t : State}

theorem execWrWrite_frame {n : Nat} {value : Word} (h : execWrWrite n value s = .next t) :
    OutsideWriterKept s t := by
  refine .of_finish h (preCheck_bind_state rfl ?_)
  split
  · rw [Res.respond_state]; exact writeList_writeFrame s _
  · exact rfl

theorem execWrClose_frame (h : execWrClose s = .next t) : OutsideWriterKept s t := by
  refine .of_finish h ?_
  split
  · exact rfl
  · exact rfl
  · rw [Res.respond_state]; exact closeOpenWriter_writeFrame s

theorem execTreeSer_frame (h : execTreeSer s = .next t) : OutsideWriterKept s t := by
  refine .of_finish h (preCheck_bind_state rfl ?_)
  rw [Res.respond_state]
  exact serBody_writeFrame s

theorem execEncSym_frame {y : Nat} (h : execEncSym y s = .next t) : OutsideWriterKept s t := by
  refine .of_finish h (preCheck_bind_state rfl ?_)
  split
  · exact rfl
  · split
    · exact rfl
    · rw [Res.respond_state]; exact encodeSymbol_writeFrame s y

end

/-- Settles O24, command by command; the host's own fields and `OUT` are O12. -/
theorem writerCommandsFrame : Obligations.WriterCommandsFrame := by
  intro i s t hi h
  have hkept : OutsideWriterKept s t := by
    rcases hi with ⟨n, value, rfl⟩ | rfl | rfl | ⟨y, rfl⟩
    · exact execWrWrite_frame h
    · exact execWrClose_frame h
    · exact execTreeSer_frame h
    · exact execEncSym_frame h
  obtain ⟨hreader, hstores⟩ := hkept
  exact ⟨hreader, hstores, commandsKeepHostSide i s t h⟩

/-! ### FREQ.COUNT and TREE.DESER -/

theorem countBody_countFrame (s : State) : countFrame s (countBody s).state := by
  have hzero : countFrame s (s.setFreq Freq.zero) := rfl
  cases hr : countBody s with
  | ok _ t => exact countFrame_trans hzero (countLoop_ok hr).1
  | raise e t => exact countFrame_trans hzero (countLoop_raise hr).1

/-- What O41 says of FREQ.COUNT, but for the host's own fields. -/
def OutsideCounterKept (s t : State) : Prop := writerKept s t ∧ t.tree = s.tree ∧ t.code = s.code ∧ t.dec = s.dec

theorem OutsideCounterKept.of_countFrame {s t : State} (h : countFrame s t) : OutsideCounterKept s t := by
  rw [h]
  exact ⟨⟨rfl, rfl, rfl, rfl⟩, rfl, rfl, rfl⟩

/-- What O41 says of TREE.DESER, but for the host's own fields. -/
def OutsideLoaderKept (s t : State) : Prop := writerKept s t ∧ t.freq = s.freq

theorem OutsideLoaderKept.of_readFrame {s t : State} (h : readFrame s t) : OutsideLoaderKept s t := by
  rw [h]
  exact ⟨⟨rfl, rfl, rfl, rfl⟩, rfl⟩

/-- A tree that enters or leaves the store touches neither the writer's side nor the frequency table. -/
theorem deserBody_outsideLoaderKept (s : State) : OutsideLoaderKept s (deserBody s).state := by
  rcases deserBody_cases s with ⟨x, t, hd, hr⟩ | ⟨e, t, hd, hr⟩ <;> rw [hr]
  · exact OutsideLoaderKept.of_readFrame (t := t) (desTree_ok hd).1
  · exact OutsideLoaderKept.of_readFrame (t := t) (desTree_raise hd).1

section
variable {s t : State}

theorem execFreqCount_frame (h : execFreqCount s = .next t) : OutsideCounterKept s t := by
  refine finish_state_of h (.of_countFrame (preCheck_bind_state rfl ?_)) (fun _ _ hu => hu) fun _ _ hu => hu
  rw [Res.respond_state]
  exact countBody_countFrame s

theorem execTreeDeser_frame (h : execTreeDeser s = .next t) : OutsideLoaderKept s t := by
  refine finish_state_of h (preCheck_bind_state (.of_readFrame rfl) ?_) (fun _ _ hu => hu) fun _ _ hu => hu
  rw [Res.respond_state]
  exact deserBody_outsideLoaderKept s

end

/-- Settles O41, command by command; the host's own fields are O12. -/
theorem sourceDrainersFrame : Obligations.SourceDrainersFrame := by
  intro i s t hi h
  obtain ⟨hfixed, -⟩ := commandsKeepHostSide i s t h
  rcases hi with rfl | rfl
  · obtain ⟨hwriter, hstores⟩ := execFreqCount_frame h
    exact ⟨hwriter, hfixed, fun _ => hstores, nofun⟩
  · obtain ⟨hwriter, hfreq⟩ := execTreeDeser_frame h
    exact ⟨hwriter, hfixed, nofun, fun _ => hfreq⟩

end Sys2Proof.Machine
end

section
/-! PROOF. O1 to O4, the encoding (30_encoding.md). A command word is the number its fields make (`toNat_eq_fields`), so
it is the assembled word of a command exactly where its fields hold that command's (`commandWord_eq_iff`); and the
decoder refuses a word for its opcode, then for a reserved bit, or it reads a command (`decode_assigned`). -/

namespace Sys2Proof

/-! ### The fields of a command word (R71) -/

section
variable (cmd : Word)

theorem opField_eq : opField cmd = cmd.toNat % 2 ^ 8 := by
  rw [opField, BitVec.extractLsb'_toNat, Nat.shiftRight_zero]

theorem nField_eq : nField cmd = cmd.toNat / 2 ^ 8 % 2 ^ 6 := by
  rw [nField, BitVec.extractLsb'_toNat, Nat.shiftRight_eq_div_pow]

theorem reservedLow_eq : reservedLow cmd = cmd.toNat / 2 ^ 14 % 2 ^ 2 := by
  rw [reservedLow, BitVec.extractLsb'_toNat, Nat.shiftRight_eq_div_pow]

theorem symField_eq : symField cmd = cmd.toNat / 2 ^ 16 % 2 ^ 9 := by
  rw [symField, BitVec.extractLsb'_toNat, Nat.shiftRight_eq_div_pow]

theorem reservedHigh_eq : reservedHigh cmd = cmd.toNat / 2 ^ 25 % 2 ^ 7 := by
  rw [reservedHigh, BitVec.extractLsb'_toNat, Nat.shiftRight_eq_div_pow]

theorem nField_lt : nField cmd < 64 := (cmd.extractLsb' 8 6).isLt

theorem symField_lt : symField cmd < 512 := (cmd.extractLsb' 16 9).isLt

end

/-! ### The assembled word (R86) -/

theorem Instr.wellFormed_iff {i : Instr} : i.WellFormed = true ↔ i.widthOperand < 64 ∧ i.symbolOperand < 512 := by
  cases i <;> simp [WellFormed, widthFits, symbolFits, widthOperand, symbolOperand]

theorem Instr.opcode_mem (i : Instr) : i.opcode ∈ assignedOpcodes := by cases i <;> simp [opcode, assignedOpcodes]

theorem Instr.opcode_lt (i : Instr) : i.opcode < 256 :=
  (by decide : ∀ op ∈ assignedOpcodes, op < 256) _ i.opcode_mem

/-- Fields that do not overlap: `|` adds them. -/
theorem or_fields_eq_add {op n : Nat} (sym : Nat) (hop : op < 2 ^ 8) (hn : n < 2 ^ 6) :
    op ||| n <<< 8 ||| sym <<< 16 = sym * 2 ^ 16 + (n * 2 ^ 8 + op) := by
  have hlow : n * 2 ^ 8 + op < 2 ^ 16 := by omega
  rw [Nat.or_comm op, ← Nat.shiftLeft_add_eq_or_of_lt hop, Nat.or_comm, Nat.shiftLeft_eq n,
    ← Nat.shiftLeft_add_eq_or_of_lt hlow, Nat.shiftLeft_eq]

theorem commandWord_toNat {i : Instr} (h : i.WellFormed = true) :
    (commandWord i).toNat = i.symbolOperand * 2 ^ 16 + (i.widthOperand * 2 ^ 8 + i.opcode) := by
  obtain ⟨hn, hsym⟩ := Instr.wellFormed_iff.1 h
  have hop := i.opcode_lt
  have hsum := or_fields_eq_add i.symbolOperand hop hn
  have hshift : ∀ {x : Nat} (k : Nat), x * 2 ^ k < 2 ^ 32 → (BitVec.ofNat 32 x <<< k).toNat = x <<< k := by
    intro x k hx
    have hx' : x < 2 ^ 32 := (Nat.le_mul_of_pos_right x (Nat.two_pow_pos k)).trans_lt hx
    rw [BitVec.toNat_shiftLeft, BitVec.toNat_ofNat, Nat.mod_eq_of_lt hx', Nat.shiftLeft_eq, Nat.mod_eq_of_lt hx]
  rw [commandWord, BitVec.toNat_or, BitVec.toNat_or, hshift 8 (by omega), hshift 16 (by omega), BitVec.toNat_ofNat,
    Nat.mod_eq_of_lt (by omega), hsum]

/-- R71, R86: a word is the assembled word of a command where its fields hold the command's, and its reserved bits 0. -/
theorem commandWord_eq_iff {i : Instr} {cmd : Word} (h : i.WellFormed = true) :
    commandWord i = cmd ↔ opField cmd = i.opcode ∧ nField cmd = i.widthOperand ∧ symField cmd = i.symbolOperand ∧
      reservedLow cmd = 0 ∧ reservedHigh cmd = 0 := by
  obtain ⟨hn, hsym⟩ := Instr.wellFormed_iff.1 h
  have hop := i.opcode_lt
  have hcmd := cmd.isLt
  rw [← BitVec.toNat_inj, commandWord_toNat h, opField_eq, nField_eq, symField_eq, reservedLow_eq, reservedHigh_eq]
  omega

/-! ### The command an opcode names (R73) -/

theorem commandOf_encode (i : Instr) : commandOf i.opcode i.widthOperand i.symbolOperand i.dataOperand = some i := by
  cases i <;> rfl

/-- The operands of the command named are the fields it uses, and `DATA`. -/
theorem commandOf_eq_some {op n sym : Nat} {data : Word} {i : Instr} (h : commandOf op n sym data = some i) :
    op = i.opcode ∧ i.widthOperand = (if i.usesWidth then n else 0) ∧
      i.symbolOperand = (if i.usesSymbol then sym else 0) ∧ ∀ m value, i = .wrWrite m value → value = data := by
  unfold commandOf at h
  split at h <;> cases h <;>
    simp [Instr.opcode, Instr.widthOperand, Instr.symbolOperand, Instr.usesWidth, Instr.usesSymbol]

theorem commandOf_eq_none {op n sym : Nat} {data : Word} (h : op ∉ assignedOpcodes) :
    commandOf op n sym data = none := by
  cases hi : commandOf op n sym data with
  | none => rfl
  | some i => exact absurd ((commandOf_eq_some hi).1 ▸ i.opcode_mem) h

theorem commandOf_assigned {op : Nat} (n sym : Nat) (data : Word) (h : op ∈ assignedOpcodes) :
    ∃ i, commandOf op n sym data = some i := by
  simp only [assignedOpcodes, List.mem_cons, List.not_mem_nil, or_false] at h
  rcases h with rfl | rfl | rfl | rfl | rfl | rfl | rfl | rfl | rfl | rfl | rfl | rfl | rfl | rfl <;> exact ⟨_, rfl⟩

/-! ### The reserved bits of a command (R71, R74) -/

theorem Instr.usesWidth_eq_false {i : Instr} : i.usesWidth = false ↔ i.opcode ≠ 0x01 ∧ i.opcode ≠ 0x11 := by
  cases i <;> simp [usesWidth, opcode]

theorem Instr.usesSymbol_eq_false {i : Instr} : i.usesSymbol = false ↔ i.opcode ≠ 0x41 := by
  cases i <;> simp [usesSymbol, opcode]

/-- R71, R74: a reserved bit, by the command that the opcode names. -/
theorem reservedBitSet_iff {cmd : Word} {i : Instr} (h : opField cmd = i.opcode) :
    reservedBitSet cmd ↔ (reservedLow cmd ≠ 0 ∨ reservedHigh cmd ≠ 0) ∨ (i.usesWidth = false ∧ nField cmd ≠ 0) ∨
      (i.usesSymbol = false ∧ symField cmd ≠ 0) := by
  rw [Instr.usesWidth_eq_false, Instr.usesSymbol_eq_false, ← h, reservedBitSet, or_assoc, and_assoc]

/-- No reserved bit is set where every field the command does not use is 0. -/
theorem not_reservedBitSet_iff {cmd : Word} {i : Instr} (h : opField cmd = i.opcode) :
    ¬ reservedBitSet cmd ↔ reservedLow cmd = 0 ∧ reservedHigh cmd = 0 ∧ (i.usesWidth = false → nField cmd = 0) ∧
      (i.usesSymbol = false → symField cmd = 0) := by
  simp only [reservedBitSet_iff h, not_or, not_and, not_not, and_assoc]

/-- A field that is 0 where the command does not use it is the operand the assembler writes there (R86). -/
theorem field_eq_operand {used : Bool} {field operand : Nat} (hoperand : operand = if used then field else 0)
    (hunused : used = false → field = 0) : field = operand := by
  cases used with
  | false => rw [hunused rfl, hoperand]; rfl
  | true => exact hoperand.symm

/-! ### The decoder (R74) -/

theorem decode_unassigned {cmd : Word} (data : Word) (h : opField cmd ∉ assignedOpcodes) :
    decode cmd data = .error .reservedOpcode := by
  rw [decode, commandOf_eq_none h]

/-- R74: a word whose opcode names a command is refused for a reserved bit, or reads that command. -/
theorem decode_assigned {cmd data : Word} {i : Instr}
    (h : commandOf (opField cmd) (nField cmd) (symField cmd) data = some i) :
    decode cmd data = if reservedBitSet cmd then .error .reservedBits else .ok i := by
  obtain ⟨hop, -⟩ := commandOf_eq_some h
  rw [decode, h]
  simp only [reservedBitSet_iff hop, ite_or]

/-- The words the decoder accepts, and the command each reads. -/
theorem decode_eq_ok_iff {cmd data : Word} {i : Instr} : decode cmd data = .ok i ↔
    commandOf (opField cmd) (nField cmd) (symField cmd) data = some i ∧ ¬ reservedBitSet cmd := by
  cases h : commandOf (opField cmd) (nField cmd) (symField cmd) data with
  | none => simp [decode, h]
  | some j => rw [decode_assigned h]; split <;> simp [*]

/-- Settles O1: the assembled word holds the operands in its fields, and every field the command does not use is 0. -/
theorem decodeEncodeAgree : Obligations.DecodeEncodeAgree := by
  intro i h
  obtain ⟨hop, hn, hsym, hlow, hhigh⟩ := (commandWord_eq_iff h).1 rfl
  have hname : commandOf (opField (commandWord i)) (nField (commandWord i)) (symField (commandWord i)) i.dataOperand =
      some i := by rw [hop, hn, hsym, commandOf_encode]
  obtain ⟨-, hwidth, hsymbol, -⟩ := commandOf_eq_some hname
  refine decode_eq_ok_iff.2 ⟨hname, (not_reservedBitSet_iff hop).2 ⟨hlow, hhigh, fun hu => ?_, fun hu => ?_⟩⟩
  · rw [hn, hwidth, hu]; rfl
  · rw [hsym, hsymbol, hu]; rfl

/-- Settles O2: a field of an accepted word is the operand the command uses, or 0 as the assembler writes it. -/
theorem acceptedWordsAreAssembled : Obligations.AcceptedWordsAreAssembled := by
  intro cmd data i h
  obtain ⟨hname, hbits⟩ := decode_eq_ok_iff.1 h
  obtain ⟨hop, hwidth, hsymbol, hdata⟩ := commandOf_eq_some hname
  obtain ⟨hlow, hhigh, hn, hsym⟩ := (not_reservedBitSet_iff hop).1 hbits
  have hn := field_eq_operand hwidth hn
  have hsym := field_eq_operand hsymbol hsym
  have hwf : i.WellFormed = true := Instr.wellFormed_iff.2 ⟨hn ▸ nField_lt cmd, hsym ▸ symField_lt cmd⟩
  exact ⟨hwf, (commandWord_eq_iff hwf).2 ⟨hop, hn, hsym, hlow, hhigh⟩, hdata⟩

/-- Settles O4: the decoder evaluates each word. -/
theorem tableWordsDecode : Obligations.TableWordsDecode := by
  unfold Obligations.TableWordsDecode
  decide

end Sys2Proof

namespace Sys2Proof.Machine

/-- R22, R239: between commands an error answer changes `RSTAT` and `RVAL` alone. -/
theorem answerError_of_idle {s : State} (h : s.macroStep = 0) (e : Err) :
    s.answerError e = { s with rstat := e.rstat, rval := 0 } := by
  rw [State.answerError, ← h]

section
variable {s : State} {cmd data : Word} {rest : List HostAct}

theorem step_of_decode_ok {i : Instr} (hplan : s.host.plan = .issue cmd data :: rest) (h : decode cmd data = .ok i) :
    step s = exec i (acceptCommand cmd data rest s) := by
  rw [step_issue hplan, runCommand, acceptCommand_cmd, acceptCommand_data, h]

theorem step_of_decode_error {e : DecodeError} (hplan : s.host.plan = .issue cmd data :: rest)
    (h : decode cmd data = .error e) : step s = .next (refuseCommand e (acceptCommand cmd data rest s)) := by
  rw [step_issue hplan, runCommand, acceptCommand_cmd, acceptCommand_data, h]

end

/-- Settles O3: the three ways a decode ends. -/
theorem reservedEncodingsRefused : Obligations.ReservedEncodingsRefused := by
  intro s cmd data rest hplan hidle
  have hassigned := commandOf_assigned (op := opField cmd) (nField cmd) (symField cmd) data
  have hanswer := answerError_of_idle (s := acceptCommand cmd data rest s) hidle
  refine ⟨fun hop => ?_, fun hop hbits => ?_, fun hop hbits => ?_⟩
  · rw [step_of_decode_error hplan (decode_unassigned data hop), refuseCommand, hanswer]
    rfl
  · obtain ⟨i, hi⟩ := hassigned hop
    rw [step_of_decode_error hplan ((decode_assigned hi).trans (if_pos hbits)), refuseCommand, hanswer]
    rfl
  · obtain ⟨i, hi⟩ := hassigned hop
    have hok := decode_eq_ok_iff.2 ⟨hi, hbits⟩
    exact ⟨i, hok, step_of_decode_ok hplan hok⟩

end Sys2Proof.Machine
end

section
/-! PROOF. O7, the order of PreCheck (R78, R238): what it raises for the units it checks, and that a command it refuses
answers that error and does nothing else. -/

namespace Sys2Proof.Machine

section
variable {u : List StreamUnit} {s : State}

theorem preCheck_closed (h : (StreamUnit.rd ∈ u ∧ s.rd.st = .closed) ∨ (StreamUnit.wr ∈ u ∧ s.wr.st = .closed)) :
    preCheck u s = .raise .unitClosed s := by
  unfold preCheck
  split_ifs with hrd hwr
  · rfl
  · rfl
  all_goals exact absurd h (not_or.2 ⟨hrd, hwr⟩)

theorem preCheck_rd_failed (hrd : StreamUnit.rd ∈ u) (hst : s.rd.st = .failed)
    (hwr : ¬ (StreamUnit.wr ∈ u ∧ s.wr.st = .closed)) : preCheck u s = .raise .stickyRd s := by
  rw [preCheck, if_neg (by simp [hst]), if_neg hwr, if_pos ⟨hrd, hst⟩]

theorem preCheck_wr_failed (hwr : StreamUnit.wr ∈ u) (hst : s.wr.st = .failed)
    (hrd : StreamUnit.rd ∈ u → s.rd.st = .opened) : preCheck u s = .raise .stickyWr s := by
  have hne : ∀ st, st ≠ .opened → ¬ (StreamUnit.rd ∈ u ∧ s.rd.st = st) := fun _ hne ⟨hm, hrd'⟩ =>
    hne (hrd'.symm.trans (hrd hm))
  rw [preCheck, if_neg (hne .closed nofun), if_neg (by simp [hst]), if_neg (hne .failed nofun), if_pos ⟨hwr, hst⟩]

/-- R238: a refused PreCheck is the whole command. -/
theorem finish_of_preCheck {e : Err} {k : PUnit → State → Res Answer} (h : preCheck u s = .raise e s) :
    finish ((preCheck u s).bind k) = .next (s.answerError e) := by
  rw [h]; rfl

theorem finishDefined_of_preCheck {e : Err} {k : PUnit → State → Res (Option Answer)} (h : preCheck u s = .raise e s) :
    finishDefined ((preCheck u s).bind k) = .next (s.answerError e) := by
  rw [h]; rfl

end

end Sys2Proof.Machine

namespace Sys2Proof

open Machine

/-- R78: the units a command's PreCheck is given. -/
def Instr.checkedUnits (i : Instr) : List StreamUnit :=
  (if i.usesReader then [.rd] else []) ++ (if i.usesWriter then [.wr] else [])

theorem Instr.rd_mem_checkedUnits {i : Instr} : StreamUnit.rd ∈ i.checkedUnits ↔ i.usesReader = true := by
  unfold checkedUnits
  cases i.usesReader <;> cases i.usesWriter <;> decide

theorem Instr.wr_mem_checkedUnits {i : Instr} : StreamUnit.wr ∈ i.checkedUnits ↔ i.usesWriter = true := by
  unfold checkedUnits
  cases i.usesReader <;> cases i.usesWriter <;> decide

/-- R238: every command that uses a unit is its PreCheck first. The two closes, TREE.BUILD and CODE.DERIVE check none. -/
theorem exec_of_preCheck {i : Instr} {s : State} {e : Err} (h : preCheck i.checkedUnits s = .raise e s) :
    exec i s = .next (s.answerError e) := by
  cases i with
  | rdRead n => exact finish_of_preCheck h
  | rdReset => exact finish_of_preCheck h
  | rdClose => cases h
  | wrWrite n value => exact finish_of_preCheck h
  | wrClose => cases h
  | freqCount => exact finish_of_preCheck h
  | treeBuild => cases h
  | codeDerive => cases h
  | treeSer => exact finish_of_preCheck h
  | treeDeser => exact finish_of_preCheck h
  | encSym y => exact finish_of_preCheck h
  | compress => exact finish_of_preCheck h
  | decStep => exact finishDefined_of_preCheck h
  | decompress => exact finishDefined_of_preCheck h

/-- Settles O7: each clause is one refusal of PreCheck. -/
theorem preCheckOrder : Obligations.PreCheckOrder := by
  intro i s
  rw [← Instr.rd_mem_checkedUnits, ← Instr.wr_mem_checkedUnits]
  exact ⟨fun h => exec_of_preCheck (preCheck_closed h),
    fun hrd hst hwr => exec_of_preCheck (preCheck_rd_failed hrd hst hwr),
    fun hwr hst hrd => exec_of_preCheck (preCheck_wr_failed hwr hst hrd)⟩

end Sys2Proof
end

section
/-! PROOF. O35, TREE.SER (R170): its body is one WriteList, and a WriteList to a ready writer completes. -/

namespace Sys2Proof.Machine

/-- R124: a ready writer takes a whole bit list and is ready again. -/
theorem writeList_of_writerReady {s : State} (l : Bits) (h : s.writerReady) :
    ∃ t, writeList l s = .ok ⟨⟩ t ∧ t.written = s.written ++ l ∧ t.writerReady := by
  obtain ⟨hst, hpend, hquiet⟩ := h
  obtain ⟨t, ht⟩ := writeList_quiet l hpend hquiet
  obtain ⟨hwritten, hpend', hst', -, hquiet', -⟩ := writeList_ok hpend ht
  exact ⟨t, ht, hwritten, hst'.trans hst, hpend', hquiet' hquiet⟩

/-- Settles O35: the bits written are those of `Tree.ser`, whose number TREE.SER answers. -/
theorem serWritesPreorder : Obligations.SerWritesPreorder := by
  intro s u hready hroot
  obtain ⟨t, ht, hwritten, hst, hpend, -⟩ := writeList_of_writerReady u.ser hready
  refine ⟨t.answer (.value (countWord 0x31 (10 * u.leaves + u.internals))), ?_,
    ⟨Answer.value_rstat _, rfl, rfl⟩, hwritten, hst, hpend⟩
  change execTreeSer s = _
  rw [execTreeSer, preCheck_of_open (by simp) fun _ => hready.1, Res.bind_ok, serBody_some hroot, ht]
  rfl

end Sys2Proof.Machine
end

section
/-! PROOF. O13 and O16 to O19, the reader's commands (R100 to R107). RD.READ is `execRdRead_complete` and
`execRdRead_endOfStream`; RD.RESET and RD.CLOSE have one equation per way they end. However they answer, the three end
in the `readFrame` of the state they started in. -/

namespace Sys2Proof.Machine

/-! ### What the reader's commands keep -/

/-- What O19 says of everything outside the reader. -/
def OutsideReaderKept (s t : State) : Prop := writerKept s t ∧ storesKept s t ∧ fixedKept s t

theorem OutsideReaderKept.of_readFrame {s t : State} (h : readFrame s t) : OutsideReaderKept s t := by
  rw [h]
  exact ⟨⟨rfl, rfl, rfl, rfl⟩, ⟨rfl, rfl, rfl, rfl⟩, rfl, rfl, rfl, rfl, rfl⟩

section
variable {s t : State}

theorem readBits_readFrame (n : Nat) (s : State) : readFrame s (readBits n s).state := by
  rcases readBits_cases n s with ⟨-, hr⟩ | ⟨-, -, hr⟩ | ⟨-, -, hr⟩ <;> rw [hr] <;> exact rfl

theorem rewindBody_readFrame (s : State) : readFrame s (rewindBody s).state := by
  rcases rewindBody_cases s with ⟨t, hr, -, hf, -⟩ | ⟨t, hr, -, hf, -⟩ <;> rw [hr] <;> exact hf

theorem execRdRead_frame {n : Nat} (h : execRdRead n s = .next t) : OutsideReaderKept s t := by
  refine finish_state_of h (.of_readFrame (preCheck_bind_state rfl ?_)) (fun _ _ hu => hu) fun _ _ hu => hu
  split
  · rw [Res.respond_state]; exact readBits_readFrame n s
  · exact rfl

theorem execRdReset_frame (h : execRdReset s = .next t) : OutsideReaderKept s t := by
  refine finish_state_of h (.of_readFrame (preCheck_bind_state rfl ?_)) (fun _ _ hu => hu) fun _ _ hu => hu
  rw [Res.respond_state]
  exact rewindBody_readFrame s

/-! ### RD.RESET -/

theorem execRdReset_of_open (hst : s.rd.st = .opened) :
    execRdReset s = finish ((rewindBody s).bind fun _ t => .ok (.value 0) t) := by
  rw [execRdReset, preCheck_of_open (fun _ => hst) (by simp), Res.bind_ok]

theorem execRdReset_complete (hst : s.rd.st = .opened) (hfault : s.host.srcErr.draw.1 = false)
    (hrewind : s.host.srcErr.draw.2.draw.1 = false) :
    ∃ t : State, execRdReset s = .next (t.answer (.value 0)) ∧
      t.rd = { s.rd with pos := 0, buf := ReadBuffer.empty } := by
  rw [execRdReset_of_open hst]
  rcases rewindBody_cases s with ⟨t, hr, hrd, -⟩ | ⟨t, -, -, -, h | h⟩
  · exact ⟨t, by rw [hr]; rfl, hrd⟩
  · rw [hfault] at h; cases h
  · rw [hrewind] at h; cases h

theorem execRdReset_sourceIO (hst : s.rd.st = .opened)
    (hdraw : s.host.srcErr.draw.1 = true ∨ s.host.srcErr.draw.2.draw.1 = true) :
    ∃ t : State, execRdReset s = .next (t.answerError .sourceIO) ∧ t.rd = { s.rd with st := .failed } := by
  rw [execRdReset_of_open hst]
  rcases rewindBody_cases s with ⟨t, -, -, -, -, hfault, hrewind⟩ | ⟨t, hr, hrd, -⟩
  · rw [hfault, hrewind] at hdraw; simp at hdraw
  · exact ⟨t, by rw [hr]; rfl, hrd⟩

/-! ### RD.CLOSE -/

theorem execRdClose_of_closed (hst : s.rd.st = .closed) : execRdClose s = .next (s.answerError .unitClosed) := by
  rw [execRdClose, hst]; rfl

theorem execRdClose_of_failed (hst : s.rd.st = .failed) :
    execRdClose s = .next ((sourceDraw s).2.releasedRd.answerError .stickyRd) := by
  rw [execRdClose, hst]; rfl

theorem execRdClose_complete (hst : s.rd.st = .opened) (hdraw : s.host.srcErr.draw.1 = false) :
    execRdClose s = .next ((sourceDraw s).2.closedRd.answer (.value 0)) := by
  rw [execRdClose, hst, sourceDraw_fst, hdraw]; rfl

theorem execRdClose_sourceIO (hst : s.rd.st = .opened) (hdraw : s.host.srcErr.draw.1 = true) :
    execRdClose s = .next ((sourceDraw s).2.closedRd.answerError .sourceIO) := by
  rw [execRdClose, hst, sourceDraw_fst, hdraw]; rfl

/-- R105: whatever its state and the release's answer, RD.CLOSE leaves the reader CLOSED with its cursor. -/
theorem execRdClose_frame (h : execRdClose s = .next t) :
    OutsideReaderKept s t ∧ t.rd.pos = s.rd.pos ∧ t.rd.st = .closed := by
  cases hst : s.rd.st with
  | closed =>
    cases (execRdClose_of_closed hst).symm.trans h
    exact ⟨.of_readFrame (t := s) rfl, rfl, hst⟩
  | failed =>
    cases (execRdClose_of_failed hst).symm.trans h
    exact ⟨.of_readFrame (t := (sourceDraw s).2.releasedRd) rfl, rfl, rfl⟩
  | opened =>
    have hclosed : OutsideReaderKept s (sourceDraw s).2.closedRd := .of_readFrame rfl
    cases hdraw : s.host.srcErr.draw.1 with
    | false => cases (execRdClose_complete hst hdraw).symm.trans h; exact ⟨hclosed, rfl, rfl⟩
    | true => cases (execRdClose_sourceIO hst hdraw).symm.trans h; exact ⟨hclosed, rfl, rfl⟩

end

/-- Settles O19, command by command. -/
theorem readerCommandsFrame : Obligations.ReaderCommandsFrame := by
  intro i s t hi h
  suffices hkept : OutsideReaderKept s t ∧ (i = .rdClose → t.rd.pos = s.rd.pos) by
    obtain ⟨⟨hwriter, hstores, hfixed⟩, hpos⟩ := hkept
    exact ⟨hwriter, hstores, hfixed, hpos⟩
  rcases hi with ⟨n, rfl⟩ | rfl | rfl
  · exact ⟨execRdRead_frame h, nofun⟩
  · exact ⟨execRdReset_frame h, nofun⟩
  · obtain ⟨hkept, hpos, -⟩ := execRdClose_frame h
    exact ⟨hkept, fun _ => hpos⟩

/-- Settles O13: the read completes, and its frame is that of every RD.READ. -/
theorem readReturnsNextBits : Obligations.ReadReturnsNextBits := by
  intro n s hst hdraw h1 h32 hleft
  have hr := execRdRead_complete hst hdraw ⟨h1, h32⟩ hleft
  exact ⟨_, hr, ⟨Answer.value_rstat _, rfl, rfl⟩, rfl, hst, rfl, execRdRead_frame hr⟩

/-- Settles O16: the first read takes the cursor to the end of the source, and a quiet source answers the second. -/
theorem readerBoundary : Obligations.ReaderBoundary := by
  intro s ⟨hst, hquiet⟩ hlen hpos
  obtain ⟨hdraw, hquiet'⟩ := Draws.quiet_draw hquiet
  obtain ⟨hdraw', -⟩ := Draws.quiet_draw hquiet'
  have hend : s.rd.pos + 32 = 8 * s.host.src.length := by omega
  refine ⟨_, _, execRdRead_complete hst hdraw (by decide) hend.le, Answer.value_rstat _, hend, ?_,
    execRdRead_endOfStream hst hdraw' (by decide) ?_, rfl, hend⟩
  · rw [← hpos]; exact resultWord_val (bitsAt_length _ _ 32).le
  · exact hend ▸ Nat.lt_succ_self _

/-- Settles O17: the two ways RD.RESET ends on an OPEN reader. -/
theorem rewindReturnsToStart : Obligations.RewindReturnsToStart := by
  intro s hst
  refine ⟨fun hfault hrewind => ?_, fun hdraw => ?_⟩
  · obtain ⟨t, hr, hrd⟩ := execRdReset_complete hst hfault hrewind
    exact ⟨_, hr, ⟨Answer.value_rstat 0, rfl, rfl⟩, hst ▸ hrd, execRdReset_frame hr⟩
  · obtain ⟨t, hr, hrd⟩ := execRdReset_sourceIO hst hdraw
    exact ⟨_, hr, rfl, rfl, hrd, execRdReset_frame hr⟩

/-- Settles O18: one equation for each state of the reader and each answer of the release. -/
theorem closeReleasesSource : Obligations.CloseReleasesSource := by
  intro s
  have hkept : ∀ {t}, execRdClose s = .next t → writerKept s t ∧ storesKept s t := fun h => by
    obtain ⟨⟨hwriter, hstores, -⟩, -⟩ := execRdClose_frame h
    exact ⟨hwriter, hstores⟩
  refine ⟨fun hst => execRdClose_of_closed hst, fun hst => ?_, fun hst hdraw => ?_, fun hst hdraw => ?_⟩
  · have hr := execRdClose_of_failed hst
    exact ⟨_, hr, rfl, rfl, rfl, hkept hr⟩
  · have hr := execRdClose_complete hst hdraw
    exact ⟨_, hr, ⟨Answer.value_rstat 0, rfl, rfl⟩, rfl, hkept hr⟩
  · have hr := execRdClose_sourceIO hst hdraw
    exact ⟨_, hr, rfl, rfl, rfl, hkept hr⟩

end Sys2Proof.Machine
end

section
/-! PROOF. O20, RD.READ over the reference datapath (R108): what a refill fetches, and what the accumulator
then holds. -/

namespace Sys2Proof.Machine

section
variable {b : ReadBuffer} {src : List Byte} {pos n : Nat}

theorem ReadBuffer.nxt_le_refill (b : ReadBuffer) (src : List Byte) (n fuel : Nat) :
    b.nxt ≤ (b.refill src n fuel).nxt := by
  induction fuel generalizing b with
  | zero => exact Nat.le_refl _
  | succ fuel ih =>
    by_cases hfetch : b.cnt < n ∧ b.nxt < src.length
    · obtain ⟨hlt, hin⟩ := hfetch
      rw [refill_fetch fuel hlt (List.getElem?_eq_getElem hin)]
      exact (Nat.le_succ _).trans (ih (b.fetch src[b.nxt]))
    · rw [refill_eq_self _ (by omega)]

/-- R273: a read of at most 32 bits fetches at most 5 bytes. -/
theorem ReadBuffer.Tracks.refill_nxt_le (h : b.Tracks src pos) (hn : n ≤ 32) (fuel : Nat) :
    (b.refill src n fuel).nxt ≤ b.nxt + 5 := by
  obtain ⟨hrefill, hmax, -⟩ := h.refill fuel hn
  have haligned := h.aligned
  have haligned' := hrefill.aligned
  omega

/-- R108: the top `n` of the bits held are the `n` bits at the cursor. -/
theorem ReadBuffer.Tracks.value (h : b.Tracks src pos) (hn : n ≤ b.cnt) : b.value n = val (bitsAt src pos n) := by
  have hbits : bitsAt src pos b.cnt = bitsAt src pos n ++ bitsAt src (pos + n) (b.cnt - n) := by
    rw [← bitsAt_add, Nat.add_sub_cancel' hn]
  have hpow : 2 ^ b.cnt = 2 ^ (b.cnt - n) * 2 ^ n := by rw [← pow_add, Nat.sub_add_cancel hn]
  have htop := val_middle [] (bitsAt src pos n) (bitsAt src (pos + n) (b.cnt - n))
  rw [List.nil_append, ← hbits, ← h.holds, hpow, bitsAt_length, bitsAt_length, Nat.mod_mul_right_div_self,
    Nat.mod_mod] at htop
  rw [ReadBuffer.value, BitVec.toNat_ushiftRight, Nat.shiftRight_eq_div_pow, htop]

end

section
variable {n : Nat} {s t : State}

theorem execRdRead_of_not_open (n : Nat) (hst : s.rd.st ≠ .opened) :
    ∃ e, execRdRead n s = .next (s.answerError e) := by
  cases hpre : preCheck [.rd] s with
  | ok _ t =>
    obtain ⟨-, hopen, -⟩ := preCheck_eq_ok.1 hpre
    exact absurd (hopen List.mem_cons_self) hst
  | raise e t =>
    obtain ⟨rfl, -⟩ := preCheck_eq_raise hpre
    exact ⟨e, finish_of_preCheck hpre⟩

theorem execRdRead_sourceIO (hst : s.rd.st = .opened) (hdraw : s.host.srcErr.draw.1 = true) (hn : 1 ≤ n ∧ n ≤ 32) :
    execRdRead n s = .next ((sourceDraw s).2.failRd.answerError .sourceIO) := by
  rw [execRdRead_of_open hst hn, readBits, sourceDraw_fst, if_pos hdraw]
  rfl

end

/-- Settles O20: only a read that gets past the draw touches the buffer, and then it is refilled, and consumed where
the `n` bits are left. -/
theorem referenceDatapathAgrees : Obligations.ReferenceDatapathAgrees := by
  intro n s t h1 h32 hbuf h
  change execRdRead n s = .next t at h
  have hn := And.intro h1 h32
  by_cases hst : s.rd.st = .opened
  · cases hdraw : s.host.srcErr.draw.1 with
    | true =>
      cases (execRdRead_sourceIO hst hdraw hn).symm.trans h
      exact ⟨nofun, Nat.le_refl _, Nat.le_add_right _ _, fun h0 => absurd h0 (Err.rstat_ne_zero _)⟩
    | false =>
      obtain ⟨htracks, hcnt⟩ := (bufferInv_iff s).1 hbuf hst
      obtain ⟨hrefill, hmax, henough⟩ := htracks.refill n h32
      have hle := s.rd.buf.nxt_le_refill s.host.src n n
      have hfetched := htracks.refill_nxt_le h32 n
      by_cases hleft : s.rd.pos + n ≤ 8 * s.host.src.length
      · have hcnt' := henough hleft (by omega)
        cases (execRdRead_complete hst hdraw hn hleft).symm.trans h
        refine ⟨(bufferInv_iff _).2 fun _ => ⟨hrefill.consume hcnt', ?_⟩, hle, hfetched, fun _ => ?_⟩
        · change (s.rd.buf.refill s.host.src n n).cnt - n ≤ 31
          omega
        · rw [hrefill.value hcnt']
          exact resultWord_val (by simpa using h32)
      · cases (execRdRead_endOfStream hst hdraw hn (Nat.lt_of_not_le hleft)).symm.trans h
        refine ⟨(bufferInv_iff _).2 fun _ => ⟨hrefill, ?_⟩, hle, hfetched,
          fun h0 => absurd h0 (Err.rstat_ne_zero _)⟩
        have haligned := hrefill.aligned
        have hinside := hrefill.inside
        change (s.rd.buf.refill s.host.src n n).cnt ≤ 31
        omega
  · obtain ⟨e, hr⟩ := execRdRead_of_not_open n hst
    cases hr.symm.trans h
    exact ⟨fun ho => absurd ho hst, Nat.le_refl _, Nat.le_add_right _ _, fun h0 => absurd h0 e.rstat_ne_zero⟩

end Sys2Proof.Machine
end

section
/-! PROOF. O11, a fault fails its unit (R106, R122, R125, R240). `Res.Raises` says what holds of every error a piece of
a command raises and of the state it raises it in; `FaultLeaves C` is what O11 says of SOURCE_IO and SINK_IO, where `C`
says whether the piece may close the writer. Each operation of the model raises only so (`<operation>_faults`). -/

namespace Sys2Proof.Machine

/-! ### What a piece of a command raises -/

/-- `Q` holds of the error and of the state wherever the piece raises. -/
def Res.Raises {α : Type} (r : Res α) (Q : Err → State → Prop) : Prop := ∀ e t, r = .raise e t → Q e t

section
variable {α β : Type} {Q : Err → State → Prop}

theorem Res.raises_ok (a : α) (s : State) : (Res.ok a s).Raises Q := by
  intro e t h
  cases h

theorem Res.raises_raise {e : Err} {s : State} : (Res.raise e s : Res α).Raises Q ↔ Q e s :=
  ⟨fun h => h e s rfl, fun h _ _ heq => by cases heq; exact h⟩

/-- The rule for program order (R11). -/
theorem Res.Raises.bind {r : Res α} {k : α → State → Res β} (h : r.Raises Q) (hk : ∀ a t, (k a t).Raises Q) :
    (r.bind k).Raises Q := by
  intro e t hr
  rcases Res.bind_eq_raise.1 hr with hr | ⟨a, u, -, hr⟩
  · exact h e t hr
  · exact hk a u e t hr

/-- A piece that goes on to no other raises what it did. -/
theorem Res.Raises.respond {r : Res α} {f : α → State → β} (h : r.Raises Q) :
    (r.bind fun a t => .ok (f a t) t).Raises Q :=
  h.bind fun _ _ => Res.raises_ok _ _

/-- The rule for "on any raise: …". -/
theorem Res.Raises.onRaise {r : Res α} {f : State → State} (h : r.Raises fun e t => Q e (f t)) :
    (r.onRaise f).Raises Q := by
  intro e t hr
  cases r with
  | ok a u => cases hr
  | raise e u => cases hr; exact h e u rfl

end

/-! ### The error a command answers -/

/-- R80, R81: the status and the detail tell the causes apart. -/
theorem Err.rstat_injective : Function.Injective Err.rstat := by
  intro e f h
  revert h
  cases e <;> cases f <;> decide

theorem Answer.rstat_ne_error (a : Answer) (e : Err) : a.rstat ≠ e.rstat := by
  intro h
  have hstatus : 0 = e.status := by simpa [Answer.rstat, Err.rstat] using congrArg rstatStatus h
  revert hstatus
  cases e <;> decide

/-- A command that answers a cause raised it. -/
theorem finish_eq_error {r : Res Answer} {t : State} {e : Err} (ht : finish r = .next t) (he : t.rstat = e.rstat) :
    ∃ u, r = .raise e u ∧ t = u.answerError e := by
  cases r with
  | ok a u => cases ht; exact absurd he (a.rstat_ne_error e)
  | raise f u => cases ht; cases Err.rstat_injective he; exact ⟨u, rfl, rfl⟩

theorem finishDefined_eq_error {r : Res (Option Answer)} {t : State} {e : Err} (ht : finishDefined r = .next t)
    (he : t.rstat = e.rstat) : ∃ u, r = .raise e u ∧ t = u.answerError e := by
  rcases finishDefined_next ht with ⟨a, u, rfl, rfl⟩ | ⟨f, u, rfl, rfl⟩
  · exact absurd he (a.rstat_ne_error e)
  · cases Err.rstat_injective he; exact ⟨u, rfl, rfl⟩

/-! ### A fault fails its unit -/

/-- SOURCE_IO comes with the reader FAILED, SINK_IO with the writer empty and FAILED, or CLOSED where `C` holds. -/
def FaultLeaves (C : Prop) (e : Err) (t : State) : Prop :=
  (e = .sourceIO → t.rd.st = .failed) ∧
    (e = .sinkIO → t.wr.pend = [] ∧ (t.wr.st = .failed ∨ (t.wr.st = .closed ∧ C)))

section
variable {C : Prop} {s t : State} {e : Err}

/-- A cause that is neither fault. -/
theorem FaultLeaves.of_ne (hsource : e ≠ .sourceIO) (hsink : e ≠ .sinkIO) : FaultLeaves C e t :=
  ⟨fun h => absurd h hsource, fun h => absurd h hsink⟩

theorem raises_of_not_fault {α : Type} (hsource : e ≠ .sourceIO) (hsink : e ≠ .sinkIO) :
    (Res.raise e s : Res α).Raises (FaultLeaves C) :=
  Res.raises_raise.2 (.of_ne hsource hsink)

theorem FaultLeaves.of_source (h : t.rd.st = .failed) : FaultLeaves C .sourceIO t := ⟨fun _ => h, nofun⟩

theorem FaultLeaves.of_sink (hpend : t.wr.pend = []) (hst : t.wr.st = .failed) : FaultLeaves C .sinkIO t :=
  ⟨nofun, fun _ => ⟨hpend, .inl hst⟩⟩

/-! ### The shared operations -/

theorem preCheck_faults (u : List StreamUnit) : (preCheck u s).Raises (FaultLeaves C) := by
  intro e t h
  obtain ⟨-, rfl | rfl | rfl⟩ := preCheck_eq_raise h <;> exact .of_ne nofun nofun

theorem readBits_faults (n : Nat) : (readBits n s).Raises (FaultLeaves C) := by
  intro e t h
  obtain ⟨-, -, ⟨rfl, hst⟩ | ⟨rfl, -⟩⟩ := readBits_raise h
  · exact .of_source hst
  · exact .of_ne nofun nofun

theorem rewindBody_faults : (rewindBody s).Raises (FaultLeaves C) := by
  intro e t h
  rcases rewindBody_cases s with ⟨u, hr, -⟩ | ⟨u, hr, hrd, -⟩ <;> cases hr.symm.trans h
  exact .of_source (by rw [hrd])

/-- R122, R124: whatever is pending, the bit whose byte is refused fails the writer. -/
theorem writeList_faults (l : Bits) : (writeList l s).Raises (FaultLeaves C) := by
  induction l generalizing s with
  | nil => exact Res.raises_ok _ s
  | cons b l ih =>
    refine Res.Raises.bind (fun e t h => ?_) fun _ _ => ih
    obtain ⟨rfl, hst, hpend, -⟩ := writeBit_raise h
    exact .of_sink hpend hst

/-- R125: a close that fails leaves the writer CLOSED. -/
theorem closeOpenWriter_faults (hC : C) : (closeOpenWriter s).Raises (FaultLeaves C) := by
  intro e t h
  obtain ⟨rfl, hwr, -⟩ := closeOpenWriter_raise h
  exact ⟨nofun, fun _ => ⟨by rw [hwr], .inr ⟨by rw [hwr], hC⟩⟩⟩

/-! ### The bodies of the commands -/

theorem countBody_faults : (countBody s).Raises (FaultLeaves C) := by
  intro e t h
  obtain ⟨-, ⟨rfl, hst⟩ | ⟨rfl, -⟩⟩ := countLoop_raise h
  · exact .of_source hst
  · exact .of_ne nofun nofun

theorem deriveBody_faults : (deriveBody s).Raises (FaultLeaves C) := by
  cases hr : s.tree.root with
  | none => rw [deriveBody_none hr]; exact raises_of_not_fault nofun nofun
  | some u => rw [deriveBody_some hr]; exact Res.raises_ok _ _

theorem serBody_faults : (serBody s).Raises (FaultLeaves C) := by
  cases hr : s.tree.root with
  | none => rw [serBody_none hr]; exact raises_of_not_fault nofun nofun
  | some u => rw [serBody_some hr]; exact (writeList_faults _).respond

theorem deserBody_faults : (deserBody s).Raises (FaultLeaves C) := by
  intro e t h
  rcases deserBody_cases s with ⟨x, u, -, hr⟩ | ⟨f, u, hd, hr⟩ <;> cases hr.symm.trans h
  obtain ⟨-, ⟨rfl, hst⟩ | ⟨hf, -⟩⟩ := desTree_raise hd
  · exact .of_source hst
  · exact .of_ne (by rintro rfl; simp at hf) (by rintro rfl; simp at hf)

theorem encodeSymbol_faults (y : Nat) : (encodeSymbol y s).Raises (FaultLeaves C) := by
  cases hy : s.code.cw.lookup y with
  | none => rw [encodeSymbol_none hy]; exact raises_of_not_fault nofun nofun
  | some w => rw [encodeSymbol_some hy]; exact (writeList_faults w).respond

theorem encodeLoop_faults (fuel k : Nat) : (encodeLoop fuel k s).Raises (FaultLeaves C) := by
  induction fuel generalizing k s with
  | zero => exact Res.raises_ok k s
  | succ fuel ih =>
    have hread := readBits_faults (C := C) (s := s) 8
    unfold encodeLoop
    split <;> rename_i hr <;> rw [hr] at hread
    · exact (encodeSymbol_faults _).bind fun _ _ => ih _
    · exact Res.raises_ok k _
    · exact Res.raises_raise.2 (Res.raises_raise.1 hread)

theorem emitSymbol_faults (y : Symbol) : (emitSymbol y s).Raises (FaultLeaves C) :=
  have hwrite : ((writerTakes s).bind fun _ s => writeBits 8 y.val s).Raises fun e t => FaultLeaves C e t.failDec :=
    (preCheck_faults [.wr]).bind fun _ _ => writeList_faults (bitsOf 8 y.val)
  hwrite.onRaise.bind fun _ _ => Res.raises_ok _ _

theorem reachNode_faults (u : Tree) : (reachNode u s).Raises (FaultLeaves C) := by
  cases u with
  | internal w l r => exact Res.raises_ok _ s
  | leaf y w =>
    unfold reachNode
    dsimp only
    split
    · exact Res.raises_ok _ _
    · exact emitSymbol_faults y

theorem decBody_faults : (decBody s).Raises (FaultLeaves C) := by
  cases hroot : s.tree.root with
  | none => rw [decBody_none hroot]; exact raises_of_not_fault nofun nofun
  | some root =>
    by_cases hd : s.dec.st = .ready
    · cases hl : root.isLeaf with
      | true => rw [decBody_leafRoot hroot hd hl]; exact raises_of_not_fault nofun nofun
      | false =>
        rw [decBody_ready hroot hd hl]
        have hread : (readBits 1 s).Raises fun e t => FaultLeaves C e t.failDec := readBits_faults 1
        refine hread.onRaise.bind fun b t => ?_
        split
        · exact Res.raises_ok _ _
        · next u _ => exact (reachNode_faults u).respond
    · rw [decBody_notReady hroot hd]; exact raises_of_not_fault nofun nofun

theorem checkMagic_faults : (checkMagic s).Raises (FaultLeaves C) := by
  have hread := readBits_faults (C := C) (s := s) 32
  unfold checkMagic
  split <;> rename_i hr <;> rw [hr] at hread
  · split
    · exact Res.raises_ok _ _
    · exact raises_of_not_fault nofun nofun
  · exact raises_of_not_fault nofun nofun
  · exact Res.raises_raise.2 (Res.raises_raise.1 hread)

theorem decodeLoop_faults (fuel e : Nat) : (decodeLoop fuel e s).Raises (FaultLeaves C) := by
  induction fuel generalizing e s with
  | zero => exact raises_of_not_fault nofun nofun
  | succ fuel ih =>
    refine decBody_faults.bind fun ev t => ?_
    match ev with
    | none => exact Res.raises_ok _ t
    | some .continued => exact ih e
    | some (.emitted _) => exact ih (e + 1)
    | some .done => exact Res.raises_ok _ t

theorem closeDecoded_faults (hC : C) (e : Option Nat) : (closeDecoded e s).Raises (FaultLeaves C) := by
  cases e with
  | none => exact Res.raises_ok _ s
  | some k => exact (closeOpenWriter_faults hC).respond

/-- R192: the steps of COMPRESS in order; only the last one closes the writer. -/
theorem compressBody_faults (hC : C) : (compressBody s).Raises (FaultLeaves C) :=
  countBody_faults.bind fun _ _ => rewindBody_faults.bind fun _ _ => (writeList_faults _).bind fun _ _ =>
  serBody_faults.bind fun _ _ => deriveBody_faults.bind fun _ _ => (encodeLoop_faults _ 0).bind fun _ _ =>
  (encodeSymbol_faults _).bind fun _ _ => (closeOpenWriter_faults hC).respond

/-- R213: the steps of DECOMPRESS in order; only the last one closes the writer. -/
theorem decompressBody_faults (hC : C) : (decompressBody s).Raises (FaultLeaves C) :=
  checkMagic_faults.bind fun _ _ => deserBody_faults.bind fun _ _ => (decodeLoop_faults _ 0).bind fun e _ =>
  closeDecoded_faults hC e

/-- A command that is its PreCheck and then `k` raises the faults that `k` does. -/
theorem preCheck_bind_faults {α : Type} {u : List StreamUnit} {k : PUnit → State → Res α}
    (hk : ∀ t, (k ⟨⟩ t).Raises (FaultLeaves C)) : ((preCheck u s).bind k).Raises (FaultLeaves C) :=
  (preCheck_faults u).bind fun _ => hk

/-! ### The commands -/

/-- What O11 says of the answer of a command other than RD.CLOSE. -/
def FaultAnswered (C : Prop) (t : State) : Prop :=
  (t.rstat = Err.sourceIO.rstat → t.rd.st = .failed) ∧
    (t.rstat = Err.sinkIO.rstat → t.wr.pend = [] ∧ (t.wr.st = .failed ∨ (t.wr.st = .closed ∧ C)))

/-- A command whose error answers are the errors `r` raises. -/
theorem FaultAnswered.of_raises {α : Type} {r : Res α} (h : r.Raises (FaultLeaves C))
    (hanswer : ∀ e, t.rstat = Err.rstat e → ∃ u, r = .raise e u ∧ t = u.answerError e) : FaultAnswered C t := by
  refine ⟨fun he => ?_, fun he => ?_⟩ <;> obtain ⟨u, hr, rfl⟩ := hanswer _ he
  · exact (h _ u hr).1 rfl
  · exact (h _ u hr).2 rfl

theorem FaultAnswered.of_finish {r : Res Answer} (ht : finish r = .next t) (h : r.Raises (FaultLeaves C)) :
    FaultAnswered C t :=
  .of_raises h fun _ => finish_eq_error ht

theorem FaultAnswered.of_finishDefined {r : Res (Option Answer)} (ht : finishDefined r = .next t)
    (h : r.Raises (FaultLeaves C)) : FaultAnswered C t :=
  .of_raises h fun _ => finishDefined_eq_error ht

theorem execRdRead_faults {n : Nat} (h : execRdRead n s = .next t) : FaultAnswered C t := by
  refine .of_finish h (preCheck_bind_faults fun u => ?_)
  split
  · exact (readBits_faults n).respond
  · exact raises_of_not_fault nofun nofun

theorem execRdReset_faults (h : execRdReset s = .next t) : FaultAnswered C t :=
  .of_finish h (preCheck_bind_faults fun _ => rewindBody_faults.respond)

theorem execWrWrite_faults {n : Nat} {value : Word} (h : execWrWrite n value s = .next t) : FaultAnswered C t := by
  refine .of_finish h (preCheck_bind_faults fun u => ?_)
  split
  · exact (writeList_faults _).respond
  · exact raises_of_not_fault nofun nofun

theorem execWrClose_faults (hC : C) (h : execWrClose s = .next t) : FaultAnswered C t := by
  refine .of_finish h ?_
  split
  · exact raises_of_not_fault nofun nofun
  · exact raises_of_not_fault nofun nofun
  · exact (closeOpenWriter_faults hC).respond

theorem execFreqCount_faults (h : execFreqCount s = .next t) : FaultAnswered C t :=
  .of_finish h (preCheck_bind_faults fun _ => countBody_faults.respond)

theorem execTreeBuild_faults (h : execTreeBuild s = .next t) : FaultAnswered C t :=
  .of_finish h (Res.raises_ok _ _)

theorem execCodeDerive_faults (h : execCodeDerive s = .next t) : FaultAnswered C t :=
  .of_finish h deriveBody_faults.respond

theorem execTreeSer_faults (h : execTreeSer s = .next t) : FaultAnswered C t :=
  .of_finish h (preCheck_bind_faults fun _ => serBody_faults.respond)

theorem execTreeDeser_faults (h : execTreeDeser s = .next t) : FaultAnswered C t :=
  .of_finish h (preCheck_bind_faults fun _ => deserBody_faults.respond)

theorem execEncSym_faults {y : Nat} (h : execEncSym y s = .next t) : FaultAnswered C t := by
  refine .of_finish h (preCheck_bind_faults fun u => ?_)
  split
  · exact raises_of_not_fault nofun nofun
  · split
    · exact raises_of_not_fault nofun nofun
    · exact (encodeSymbol_faults y).respond

theorem execCompress_faults (hC : C) (h : execCompress s = .next t) : FaultAnswered C t :=
  .of_finish h (preCheck_bind_faults fun _ => (compressBody_faults hC).respond)

theorem execDecStep_faults (h : execDecStep s = .next t) : FaultAnswered C t :=
  .of_finishDefined h (preCheck_bind_faults fun _ => decBody_faults.respond)

theorem execDecompress_faults (hC : C) (h : execDecompress s = .next t) : FaultAnswered C t :=
  .of_finishDefined h (preCheck_bind_faults fun _ => (decompressBody_faults hC).respond)

/-- R105: RD.CLOSE uses no sink. -/
theorem execRdClose_ne_sinkIO (h : execRdClose s = .next t) : t.rstat ≠ Err.sinkIO.rstat := by
  intro he
  obtain ⟨u, hr, -⟩ := finish_eq_error h he
  split at hr
  · cases hr
  · cases hr
  · split at hr <;> cases hr

theorem exec_faults {i : Instr} (hi : i ≠ .rdClose) (h : exec i s = .next t) :
    FaultAnswered (i = .wrClose ∨ i = .compress ∨ i = .decompress) t := by
  cases i with
  | rdRead n => exact execRdRead_faults h
  | rdReset => exact execRdReset_faults h
  | rdClose => exact absurd rfl hi
  | wrWrite n value => exact execWrWrite_faults h
  | wrClose => exact execWrClose_faults (.inl rfl) h
  | freqCount => exact execFreqCount_faults h
  | treeBuild => exact execTreeBuild_faults h
  | codeDerive => exact execCodeDerive_faults h
  | treeSer => exact execTreeSer_faults h
  | treeDeser => exact execTreeDeser_faults h
  | encSym y => exact execEncSym_faults h
  | compress => exact execCompress_faults (.inr (.inl rfl)) h
  | decStep => exact execDecStep_faults h
  | decompress => exact execDecompress_faults (.inr (.inr rfl)) h

end

/-- Settles O11, command by command; RD.CLOSE leaves the reader CLOSED however it answers. -/
theorem faultsFailTheirUnit : Obligations.FaultsFailTheirUnit := by
  intro i s t h
  by_cases hi : i = .rdClose
  · subst hi
    obtain ⟨-, -, hst⟩ := execRdClose_frame h
    exact ⟨fun _ => hst, fun he => absurd he (execRdClose_ne_sinkIO h)⟩
  · rw [if_neg hi]
    exact exec_faults hi h

end Sys2Proof.Machine
end

section
/-! PROOF. O21 to O23, the writer's commands (R120 to R125). A WriteList is followed bit by bit: a bit joins the pending
ones, or completes a byte that its draw accepts or refuses (`writeBit_pending`, `writeBit_accepted`,
`writeBit_refused`). WR.CLOSE has one equation per way it ends. -/

namespace Sys2Proof.Machine

/-! ### The first refusal among the sink's draws (R123) -/

section
variable {d : Draws} {j k : Nat}

theorem Draws.firstRefusal_zero : d.firstRefusal 0 ↔ d.draw.1 = true := by
  simp [firstRefusal]

/-- The first refusal comes after an accepted draw, and is then the first of the draws left. -/
theorem Draws.firstRefusal_succ : d.firstRefusal (k + 1) ↔ d.draw.1 = false ∧ d.draw.2.firstRefusal k := by
  simp only [firstRefusal, Nat.forall_lt_succ_left, nth_zero, nth_draw, and_assoc]

theorem Draws.firstRefusal_unique (hj : d.firstRefusal j) (hk : d.firstRefusal k) : j = k := by
  obtain ⟨hbeforej, hatj⟩ := hj
  obtain ⟨hbeforek, hatk⟩ := hk
  rcases Nat.lt_trichotomy j k with h | h | h
  · rw [hbeforek j h] at hatj; cases hatj
  · exact h
  · rw [hbeforej k h] at hatk; cases hatk

end

/-! ### One byte, and one bit, by the sink's draw (R122, R124) -/

section
variable {b : Byte} {bit : Bool} {s : State}

theorem emitByte_accepted (hdraw : s.host.sinkErr.draw.1 = false) :
    emitByte b s = .ok ⟨⟩ (sinkAccept b (sinkDraw s).2) := by
  have hput : sinkPut b s = (false, sinkAccept b (sinkDraw s).2) := if_neg (by simp [hdraw])
  rw [emitByte, hput]
  rfl

/-- R123: the refused byte is in `OUT` exactly where its draw says that it landed. -/
theorem emitByte_refused (hdraw : s.host.sinkErr.draw.1 = true) :
    ∃ t, emitByte b s = .raise .sinkIO t ∧ t.wr = { st := .failed, pend := [] } ∧
      t.host.out = s.host.out ++ if s.host.landed.draw.1 then [b] else [] := by
  obtain ⟨hio, -⟩ := sinkPut_refused (b := b) hdraw
  refine ⟨(sinkPut b s).2.failWr, if_pos hio, rfl, ?_⟩
  rw [State.failWr_host, sinkPut, sinkDraw_fst, if_pos hdraw, landedDraw_fst, sinkDraw_host]
  cases s.host.landed.draw.1 <;> simp

theorem writeBit_pending (h : (s.wr.pend ++ [bit]).length ≠ 8) :
    writeBit bit s = .ok ⟨⟩ (s.setPend (s.wr.pend ++ [bit])) :=
  if_neg h

theorem writeBit_accepted (h : (s.wr.pend ++ [bit]).length = 8) (hdraw : s.host.sinkErr.draw.1 = false) :
    writeBit bit s = .ok ⟨⟩ ((sinkAccept (byteOf (s.wr.pend ++ [bit])) (sinkDraw s).2).setPend []) := by
  have hemit := emitByte_accepted (b := byteOf (s.wr.pend ++ [bit])) (s := s.setPend (s.wr.pend ++ [bit])) hdraw
  rw [writeBit, if_pos h, hemit]
  rfl

theorem writeBit_refused (h : (s.wr.pend ++ [bit]).length = 8) (hdraw : s.host.sinkErr.draw.1 = true) :
    ∃ t, writeBit bit s = .raise .sinkIO t ∧ t.wr = { st := .failed, pend := [] } ∧
      t.host.out = s.host.out ++ if s.host.landed.draw.1 then [byteOf (s.wr.pend ++ [bit])] else [] := by
  obtain ⟨t, ht, hkept⟩ := emitByte_refused (b := byteOf (s.wr.pend ++ [bit]))
    (s := s.setPend (s.wr.pend ++ [bit])) hdraw
  exact ⟨t, by rw [writeBit, if_pos h, ht, Res.bind_raise], hkept⟩

end

/-! ### The byte a WriteList fails at (R122 to R124) -/

/-- What a WriteList leaves in `t` where the sink, as it stood in `h`, refuses byte number `k` of the bits pending and
written: the writer FAILED, and in `OUT` the bytes before it, and that byte too where it landed. -/
structure RefusedAt (h : HostSide) (bits : Bits) (k : Nat) (t : State) : Prop where
  first : h.sinkErr.firstRefusal k
  inside : 8 * (k + 1) ≤ bits.length
  failed : t.wr = { st := .failed, pend := [] }
  out : bytesBits t.host.out = bytesBits h.out ++ bits.take (8 * (k + if h.landed.draw.1 then 1 else 0))

section
variable {s t : State} {byte l : Bits} {k : Nat}

theorem RefusedAt.of_first_byte (hbyte : byte.length = 8) (hdraw : s.host.sinkErr.draw.1 = true)
    (hfailed : t.wr = { st := .failed, pend := [] })
    (hout : t.host.out = s.host.out ++ if s.host.landed.draw.1 then [byteOf byte] else []) :
    RefusedAt s.host (byte ++ l) 0 t := by
  refine ⟨Draws.firstRefusal_zero.2 hdraw, by simp [hbyte], hfailed, ?_⟩
  rw [hout, bytesBits_append]
  cases s.host.landed.draw.1
  · simp [bytesBits]
  · simp [bytesBits_byteOf hbyte, ← hbyte]

/-- A byte accepted before the refusal is one more in `OUT`. -/
theorem RefusedAt.after_byte (hbyte : byte.length = 8) (hdraw : s.host.sinkErr.draw.1 = false)
    (h : RefusedAt (sinkAccept (byteOf byte) (sinkDraw s).2).host l k t) :
    RefusedAt s.host (byte ++ l) (k + 1) t := by
  obtain ⟨hfirst, hinside, hfailed, hout⟩ := h
  refine ⟨Draws.firstRefusal_succ.2 ⟨hdraw, hfirst⟩, ?_, hfailed, ?_⟩
  · rw [List.length_append, hbyte]; omega
  · have hwhole (m : Nat) : 8 * (k + 1 + m) = byte.length + 8 * (k + m) := by omega
    rw [hout, sinkAccept_host, bytesBits_append, bytesBits_byteOf hbyte, hwhole, List.take_length_add_append,
      List.append_assoc]
    rfl

/-- R122, R124: a WriteList fails at the first byte whose draw refuses it, or every byte it completes is accepted. -/
theorem writeList_cases (l : Bits) (hpend : s.wr.pend.length ≤ 7) :
    (∃ k t, writeList l s = .raise .sinkIO t ∧ RefusedAt s.host (s.wr.pend ++ l) k t) ∨
    (∃ t, writeList l s = .ok ⟨⟩ t ∧
      ∀ j, 8 * (j + 1) ≤ (s.wr.pend ++ l).length → s.host.sinkErr.nth j = false) := by
  induction l generalizing s with
  | nil =>
    refine .inr ⟨s, rfl, fun j hj => ?_⟩
    rw [List.append_nil] at hj
    omega
  | cons b l ih =>
    rw [List.append_cons, writeList]
    by_cases hbyte : (s.wr.pend ++ [b]).length = 8
    · cases hdraw : s.host.sinkErr.draw.1 with
      | true =>
        obtain ⟨t, ht, hfailed, hout⟩ := writeBit_refused hbyte hdraw
        rw [ht]
        exact .inl ⟨0, t, rfl, .of_first_byte hbyte hdraw hfailed hout⟩
      | false =>
        rw [writeBit_accepted hbyte hdraw, Res.bind_ok]
        rcases ih (s := (sinkAccept (byteOf (s.wr.pend ++ [b])) (sinkDraw s).2).setPend []) (Nat.zero_le _) with
          ⟨k, t, ht, hrefused⟩ | ⟨t, ht, haccepted⟩
        · exact .inl ⟨k + 1, t, ht, hrefused.after_byte hbyte hdraw⟩
        · refine .inr ⟨t, ht, fun j hj => ?_⟩
          cases j with
          | zero => rw [Draws.nth_zero, hdraw]
          | succ j =>
            rw [List.length_append, hbyte] at hj
            rw [← Draws.nth_draw]
            exact haccepted j (show 8 * (j + 1) ≤ l.length by omega)
    · have hlen : (s.wr.pend ++ [b]).length = s.wr.pend.length + 1 := List.length_append
      rw [writeBit_pending hbyte, Res.bind_ok]
      exact ih (s := s.setPend (s.wr.pend ++ [b])) (show (s.wr.pend ++ [b]).length ≤ 7 by omega)

theorem writeList_refused (hpend : s.wr.pend.length ≤ 7) (hfirst : s.host.sinkErr.firstRefusal k)
    (hinside : 8 * (k + 1) ≤ (s.wr.pend ++ l).length) :
    ∃ t, writeList l s = .raise .sinkIO t ∧ RefusedAt s.host (s.wr.pend ++ l) k t := by
  rcases writeList_cases l hpend with ⟨j, t, ht, hrefused⟩ | ⟨t, -, haccepted⟩
  · cases Draws.firstRefusal_unique hrefused.first hfirst
    exact ⟨t, ht, hrefused⟩
  · have hat := hfirst.2
    rw [haccepted k hinside] at hat
    cases hat

end

/-! ### WR.WRITE -/

section
variable {n : Nat} {s : State}

/-- A legal write to an OPEN writer is its WriteBits. -/
theorem execWrWrite_of_open (value : Word) (hst : s.wr.st = .opened) (hn : 1 ≤ n ∧ n ≤ 32) :
    execWrWrite n value s = finish ((writeBits n value.toNat s).bind fun _ t => .ok (.value 0) t) := by
  rw [execWrWrite, preCheck_of_open (by simp) fun _ => hst, Res.bind_ok, if_pos (legalWidth_iff.2 hn)]

theorem execWrWrite_complete (value : Word) (h : s.writerReady) (hn : 1 ≤ n ∧ n ≤ 32) :
    ∃ t : State, execWrWrite n value s = .next (t.answer (.value 0)) ∧
      t.written = s.written ++ bitsOf n value.toNat ∧ t.writerReady := by
  obtain ⟨t, ht, hkept⟩ := writeList_of_writerReady (bitsOf n value.toNat) h
  exact ⟨t, by rw [execWrWrite_of_open value h.1 hn, writeBits, ht]; rfl, hkept⟩

end

/-- Settles O21: the write is a WriteList of `bitsOf`; that `OUT` only grows is O12. -/
theorem writeAppendsLowBits : Obligations.WriteAppendsLowBits := by
  intro n value s hready h1 h32
  obtain ⟨t, ht, hwritten, hst, hpend, -⟩ := execWrWrite_complete value hready ⟨h1, h32⟩
  obtain ⟨-, hout⟩ := commandsKeepHostSide (.wrWrite n value) _ _ ht
  exact ⟨_, ht, ⟨Answer.value_rstat 0, rfl, rfl⟩, hwritten, hst, hpend, hout⟩

/-- Settles O22: `writeList_refused` is the first clause; an accepted WriteList does not answer SINK_IO. -/
theorem refusedByteFailsWriter : Obligations.RefusedByteFailsWriter := by
  intro n value s hst hpend h1 h32 bits
  have hexec : exec (.wrWrite n value) s = finish _ := execWrWrite_of_open value hst ⟨h1, h32⟩
  rw [writeBits] at hexec
  refine ⟨fun k hfirst hinside => ?_, fun t ht herr => ?_⟩
  · obtain ⟨t, ht, hrefused⟩ := writeList_refused hpend hfirst hinside
    have hnext : exec (.wrWrite n value) s = .next (t.answerError .sinkIO) := by rw [hexec, ht]; rfl
    obtain ⟨-, hgrows⟩ := commandsKeepHostSide _ _ _ hnext
    exact ⟨_, hnext, rfl, rfl, hrefused.failed, hgrows, hrefused.out⟩
  · rcases writeList_cases (bitsOf n value.toNat) hpend with ⟨k, u, -, hrefused⟩ | ⟨u, hu, -⟩
    · exact ⟨k, hrefused.first, hrefused.inside⟩
    · rw [hexec, hu] at ht
      cases ht
      exact absurd herr (Answer.rstat_ne_error _ _)

/-! ### WR.CLOSE (R125) -/

/-- The bits of the padded byte are the pending bits and the zeros that complete them. -/
theorem bytesBits_lastByte {pend : Bits} (h : pend.length ≤ 8) :
    bytesBits [lastByte pend] = pend ++ List.replicate (8 - pend.length) false :=
  bytesBits_byteOf (by rw [List.length_append, List.length_replicate, Nat.add_sub_cancel' h])

section
variable {s : State}

theorem execWrClose_of_closed (hst : s.wr.st = .closed) : execWrClose s = .next (s.answerError .unitClosed) := by
  rw [execWrClose, hst]; rfl

theorem execWrClose_of_failed (hst : s.wr.st = .failed) :
    execWrClose s = .next ((sinkDraw s).2.closedWr.answerError .stickyWr) := by
  rw [execWrClose, hst]; rfl

theorem execWrClose_of_open (hst : s.wr.st = .opened) :
    execWrClose s = finish ((closeOpenWriter s).bind fun _ t => .ok (.value 0) t) := by
  rw [execWrClose, hst]

/-- R125: the close of a ready writer leaves in `OUT` what was written, padded to a whole byte. -/
theorem execWrClose_complete (h : s.writerReady) :
    ∃ t : State, execWrClose s = .next (t.answer (.value 0)) ∧ t.wr = { st := .closed, pend := [] } ∧
      bytesBits t.host.out = s.written ++ List.replicate ((8 - s.wr.pend.length) % 8) false ∧
      (s.wr.pend = [] → t.host.out = s.host.out) := by
  obtain ⟨hst, hpend, hquiet⟩ := h
  obtain ⟨t, ht⟩ := closeOpenWriter_quiet hquiet
  obtain ⟨⟨hwr, -⟩, hout⟩ := closeOpenWriter_ok ht
  refine ⟨t, by rw [execWrClose_of_open hst, ht]; rfl, hwr, ?_, fun hnone => by simp [hout, hnone]⟩
  rw [hout, bytesBits_append, State.written]
  by_cases hnone : s.wr.pend = []
  · simp [hnone, bytesBits]
  · have hpos := List.length_pos_iff.2 hnone
    rw [if_neg hnone, bytesBits_lastByte (by omega), Nat.mod_eq_of_lt (by omega), List.append_assoc]

/-- R125: the first draw refuses the padded byte, or with nothing pending the release. -/
theorem closeOpenWriter_refused (hdraw : s.host.sinkErr.draw.1 = true) :
    ∃ t, closeOpenWriter s = .raise .sinkIO t := by
  unfold closeOpenWriter
  split
  · rcases releaseSink_cases s with ⟨-, hr⟩ | ⟨hr, -⟩
    · exact ⟨_, hr⟩
    · rw [hdraw] at hr; cases hr
  · obtain ⟨hio, -⟩ := sinkPut_refused (b := lastByte s.wr.pend) hdraw
    exact ⟨_, if_pos hio⟩

/-- R125: the padded byte is accepted and the second draw refuses the release. -/
theorem closeOpenWriter_release_refused (hpend : s.wr.pend ≠ []) (hput : s.host.sinkErr.draw.1 = false)
    (hrelease : s.host.sinkErr.draw.2.draw.1 = true) :
    ∃ t, closeOpenWriter s = .raise .sinkIO t ∧ t.host.out = s.host.out ++ [lastByte s.wr.pend] := by
  obtain ⟨hio, -, -, hout, hdraws⟩ := sinkPut_accepted (b := lastByte s.wr.pend) hput
  refine ⟨(sinkDraw (sinkPut (lastByte s.wr.pend) s).2).2.closedWr, ?_, hout⟩
  rw [closeOpenWriter, if_neg hpend, hio, if_neg Bool.false_ne_true, releaseSink, sinkDraw_fst, hdraws, if_pos hrelease]

/-- R125: a refused close answers SINK_IO, and the unit is CLOSED. -/
theorem execWrClose_sinkIO {t : State} (hst : s.wr.st = .opened) (h : closeOpenWriter s = .raise .sinkIO t) :
    execWrClose s = .next (t.answerError .sinkIO) ∧ closedAfter s t := by
  obtain ⟨-, hclosed⟩ := closeOpenWriter_raise h
  exact ⟨by rw [execWrClose_of_open hst, h]; rfl, hclosed⟩

end

/-- Settles O23: one equation for each state of the writer and each answer of the sink. -/
theorem closeFlushesWriter : Obligations.CloseFlushesWriter := by
  refine ⟨fun s hready => ?_, fun s => ⟨fun hst => execWrClose_of_closed hst, fun hst => ?_, fun hst hdraw => ?_,
    fun hst hpend hput hrelease => ?_⟩⟩
  · obtain ⟨t, ht, hwr, hbits, hnone⟩ := execWrClose_complete hready
    exact ⟨_, ht, ⟨Answer.value_rstat 0, rfl, rfl⟩, hwr, hbits, hnone⟩
  · exact ⟨_, execWrClose_of_failed hst, rfl, rfl, rfl, rfl⟩
  · obtain ⟨t, ht⟩ := closeOpenWriter_refused hdraw
    obtain ⟨hnext, hwr, -, hout⟩ := execWrClose_sinkIO hst ht
    exact ⟨_, hnext, rfl, rfl, hwr, hout⟩
  · obtain ⟨t, ht, hout⟩ := closeOpenWriter_release_refused hpend hput hrelease
    obtain ⟨hnext, hwr, -⟩ := execWrClose_sinkIO hst ht
    exact ⟨_, hnext, rfl, rfl, hwr, hout⟩

end Sys2Proof.Machine
end

section
/-! PROOF. O25 and O26, lists of writes (R126, R127): what they and a close leave in `OUT`, and a list of reads over it.
The reader's side is `State.nextBits`: a read of the bits it begins with leaves the rest next. -/

namespace Sys2Proof.Machine

/-! ### Streams of bytes as streams of bits (R51) -/

@[simp] theorem bytesBits_length (bs : List Byte) : (bytesBits bs).length = 8 * bs.length := by
  simp [bytesBits, List.length_flatMap, Nat.mul_comm]

theorem bitsAt_take (src : List Byte) {m : Nat} (h : m ≤ src.length) :
    bitsAt src 0 (8 * m) = bytesBits (src.take m) := by
  induction m with
  | zero => rfl
  | succ m ih =>
    have hbyte : src[m]? = some src[m] := List.getElem?_eq_getElem h
    rw [Nat.mul_succ, bitsAt_add, ih (Nat.le_of_lt h), Nat.zero_add, bitsAt_byte hbyte, List.take_add_one, hbyte,
      bytesBits_append]
    simp [bytesBits]

theorem bitsAt_eq_bytesBits (src : List Byte) : bitsAt src 0 (8 * src.length) = bytesBits src := by
  rw [bitsAt_take src (Nat.le_refl _), List.take_length]

section
variable {s : State} {a l : Bits}

/-- Bits that the whole source begins with are next where the cursor is at 0. -/
theorem State.nextBits_of_prefix (hpos : s.rd.pos = 0) (h : l <+: bytesBits s.host.src) : s.nextBits l := by
  have hlen : l.length ≤ 8 * s.host.src.length := by simpa using h.length_le
  have hcut : bitsAt s.host.src 0 l.length <+: bytesBits s.host.src := by
    rw [← bitsAt_eq_bytesBits, ← Nat.add_sub_cancel' hlen, bitsAt_add]
    exact List.prefix_append _ _
  rw [State.nextBits, hpos]
  exact ⟨by omega, (List.prefix_of_prefix_length_le hcut h (by simp)).eq_of_length (by simp)⟩

theorem State.nextBits_left (h : s.nextBits (a ++ l)) : s.nextBits a := by
  obtain ⟨hlen, hbits⟩ := h
  rw [List.length_append] at hlen hbits
  rw [bitsAt_add] at hbits
  exact ⟨by omega, List.append_inj_left hbits (bitsAt_length _ _ _)⟩

/-- Past the first part of the bits at a cursor come the others. -/
theorem State.nextBits_after {t : State} (h : s.nextBits (a ++ l)) (hpos : t.rd.pos = s.rd.pos + a.length)
    (hsrc : t.host.src = s.host.src) : t.nextBits l := by
  obtain ⟨hlen, hbits⟩ := h
  rw [List.length_append] at hlen hbits
  rw [bitsAt_add] at hbits
  rw [State.nextBits, hpos, hsrc]
  exact ⟨by omega, List.append_inj_right hbits (bitsAt_length _ _ _)⟩

/-- R102: a read of the first part of the next bits returns it, and a ready reader is ready again. -/
theorem execRdRead_nextBits (h : s.readerReady) (hn : 1 ≤ a.length ∧ a.length ≤ 32) (hnext : s.nextBits (a ++ l)) :
    ∃ t, execRdRead a.length s = .next t ∧ t.rstat = 0 ∧ t.rval = resultWord (val a) ∧ t.readerReady ∧
      t.nextBits l := by
  obtain ⟨hst, hquiet⟩ := h
  obtain ⟨hdraw, hquiet'⟩ := Draws.quiet_draw hquiet
  obtain ⟨hleft, hbits⟩ := State.nextBits_left hnext
  refine ⟨_, execRdRead_complete hst hdraw hn hleft, Answer.value_rstat _, ?_, ⟨hst, hquiet'⟩,
    State.nextBits_after hnext rfl rfl⟩
  rw [hbits]
  rfl

end

/-! ### Lists of writes -/

/-- The bits a list of writes appends (R121, R124). -/
def bitsWritten (ws : List (Nat × Word)) : Bits := ws.flatMap fun w => bitsOf w.1 w.2.toNat

theorem bitsWritten_cons (w : Nat × Word) (ws : List (Nat × Word)) :
    bitsWritten (w :: ws) = bitsOf w.1 w.2.toNat ++ bitsWritten ws := rfl

theorem bitsWritten_length (ws : List (Nat × Word)) : (bitsWritten ws).length = totalWidth ws := by
  simp [bitsWritten, totalWidth, List.length_flatMap]

theorem execAll_append {is js : List Instr} {s t : State} (h : execAll is s = some t) :
    execAll (is ++ js) s = execAll js t := by
  induction is generalizing s with
  | nil => cases h; rfl
  | cons i is ih =>
    rw [execAll] at h
    rw [List.cons_append, execAll]
    cases hi : exec i s with
    | next u => rw [hi] at h; exact ih h
    | fault f => rw [hi] at h; cases h
    | refused r => rw [hi] at h; cases h

section
variable {ws : List (Nat × Word)} {s : State} (hws : ∀ w ∈ ws, 1 ≤ w.1 ∧ w.1 ≤ 32)
include hws

/-- R121, R124: a ready writer takes every write of the list. -/
theorem execAll_writesOf (h : s.writerReady) :
    ∃ t, execAll (writesOf ws) s = some t ∧ t.written = s.written ++ bitsWritten ws ∧ t.writerReady := by
  induction ws generalizing s with
  | nil => exact ⟨s, rfl, (List.append_nil _).symm, h⟩
  | cons w ws ih =>
    obtain ⟨hw, hws⟩ := List.forall_mem_cons.1 hws
    obtain ⟨u, hu, hwritten, hready⟩ := execWrWrite_complete w.2 h hw
    obtain ⟨t, ht, hwritten', hready'⟩ := ih hws (s := u.answer (.value 0)) hready
    have hexec : exec (.wrWrite w.1 w.2) s = .next (u.answer (.value 0)) := hu
    have hall : execAll (writesOf (w :: ws)) s = execAll (writesOf ws) (u.answer (.value 0)) := by
      rw [writesOf, List.map_cons, execAll, hexec]
      rfl
    refine ⟨t, hall.trans ht, ?_, hready'⟩
    have hkept : (u.answer (.value 0)).written = u.written := rfl
    rw [hwritten', hkept, hwritten, bitsWritten_cons, List.append_assoc]

/-- R52, R102: reads of the widths written, over a source that goes on with the bits written, return the values. -/
theorem readAll_bitsWritten (h : s.readerReady) (hnext : s.nextBits (bitsWritten ws)) :
    readAll (ws.map Prod.fst) s = some (ws.map fun w => resultWord (w.2.toNat % 2 ^ w.1)) := by
  induction ws generalizing s with
  | nil => rfl
  | cons w ws ih =>
    obtain ⟨hw, hws⟩ := List.forall_mem_cons.1 hws
    obtain ⟨t, ht, hok, hval, hready, hrest⟩ :=
      execRdRead_nextBits (a := bitsOf w.1 w.2.toNat) h (by simpa using hw) hnext
    rw [bitsOf_length] at ht
    rw [val_bitsOf] at hval
    have hexec : exec (.rdRead w.1) s = .next t := ht
    rw [List.map_cons, readAll, hexec]
    simp only [hok, if_true, hval, ih hws hready hrest, Option.map_some, List.map_cons]

end

/-- Settles O25: the written stream is `OUT` and at most 7 pending bits, and the close pads it to whole bytes. -/
theorem outputLength : Obligations.OutputLength := by
  intro ws s hws hready hempty
  obtain ⟨u, hu, hwritten, hready'⟩ := execAll_writesOf hws hready
  obtain ⟨t, ht, -, hbits, -⟩ := execWrClose_complete hready'
  obtain ⟨-, hpend, -⟩ := hready'
  rw [hempty, List.nil_append] at hwritten
  have hlen : 8 * u.host.out.length + u.wr.pend.length = totalWidth ws := by
    rw [← bytesBits_length, ← List.length_append, ← bitsWritten_length, ← hwritten, State.written]
  have hpad : (8 - u.wr.pend.length) % 8 = (8 - totalWidth ws % 8) % 8 := by omega
  rw [hwritten, hpad] at hbits
  have hlen' : 8 * t.host.out.length = totalWidth ws + (8 - totalWidth ws % 8) % 8 := by
    rw [← bytesBits_length, hbits, List.length_append, bitsWritten_length, List.length_replicate]
  exact ⟨u, _, hu, by omega, ht, Answer.value_rstat 0, show t.host.out.length = _ by omega, hbits⟩

/-- Settles O26: the bits of `OUT` begin with the bits written (O25), and the reads take them one by one. -/
theorem readerWriterInverse : Obligations.ReaderWriterInverse := by
  intro ws s hws hready hempty
  obtain ⟨u, t, hu, -, hclose, -, -, hbits⟩ := outputLength ws s hws hready hempty
  refine ⟨t, ?_, fun r hr hpos hsrc => readAll_bitsWritten hws hr (State.nextBits_of_prefix hpos ?_)⟩
  · rw [execAll_append hu, execAll, hclose]
    rfl
  · rw [hsrc, hbits]
    exact List.prefix_append _ _

end Sys2Proof.Machine
end

section
/-! PROOF. O27, FREQ.COUNT (R140, R142). `Counting s r c u` follows the loop by the chunks it has read and those it has
counted: a round reads and counts the next chunk, until fewer than eight bits are left or `MAX_CHUNKS` are counted. -/

namespace Sys2Proof.Machine

/-! ### Tallies -/

@[simp] theorem tally_nil : tally [] = Freq.zero := by
  simp only [tally, Freq.zero, List.count_nil, List.map_const', List.length_range, List.length_nil]

theorem bump_tally (chunks : List Nat) (v : Nat) : (tally chunks).bump v = tally (chunks ++ [v]) := by
  have hcnt : ((List.range 256).map fun c => chunks.count c).modify v (· + 1) =
      (List.range 256).map fun c => (chunks ++ [v]).count c := by
    refine List.ext_getElem (by simp) fun i h _ => ?_
    rw [List.getElem_modify]
    by_cases hi : v = i <;> simp [hi, List.count_singleton, List.count_append]
  simp only [Freq.bump, tally, hcnt, List.length_append, List.length_singleton]

theorem chunksAt_succ (src : List Byte) (p m : Nat) :
    chunksAt src p (m + 1) = chunksAt src p m ++ [val (bitsAt src (p + 8 * m) 8)] := by
  simp [chunksAt, List.range_succ]

theorem tally_chunksAt_total (src : List Byte) (p m : Nat) : (tally (chunksAt src p m)).total = m := by
  simp [tally, chunksAt]

/-! ### The counting loop -/

/-- `u` is `s` with `r` chunks read and the first `c` of them counted; the reader is OPEN and its source answers. -/
structure Counting (s : State) (r c : Nat) (u : State) : Prop where
  params : u.params = s.params
  src : u.host.src = s.host.src
  ready : u.readerReady
  pos : u.rd.pos = s.rd.pos + 8 * r
  freq : u.freq = tally (chunksAt s.host.src s.rd.pos c)

section
variable {s u : State} {k c : Nat}

theorem Counting.start (h : s.readerReady) : Counting s 0 0 (s.setFreq Freq.zero) where
  params := rfl
  src := rfl
  ready := h
  pos := rfl
  freq := tally_nil.symm

theorem Counting.total (h : Counting s k c u) : u.freq.total = c := by
  rw [h.freq, tally_chunksAt_total]

/-- With a whole chunk left, the round's ReadBits reads it. -/
theorem Counting.read (h : Counting s k c u) (hk : k < s.bitsLeft / 8) :
    ∃ v, readBits 8 u = .ok (val (bitsAt s.host.src (s.rd.pos + 8 * k) 8)) v ∧ Counting s (k + 1) c v := by
  obtain ⟨hparams, hsrc, ⟨hst, hquiet⟩, hpos, hfreq⟩ := h
  have hleft : u.rd.pos + 8 ≤ 8 * u.host.src.length := by
    rw [State.bitsLeft] at hk
    rw [hpos, hsrc]
    omega
  have hread := readBits_quiet hquiet hleft
  rw [hsrc, hpos] at hread
  exact ⟨_, hread, hparams, hsrc, ⟨hst, (Draws.quiet_draw hquiet).2⟩, congrArg (· + 8) hpos, hfreq⟩

/-- R140: a round with a whole chunk left and room for it counts it. -/
theorem Counting.round (h : Counting s k k u) (hk : k < s.bitsLeft / 8) (hmax : k < maxChunks s.params) (fuel : Nat) :
    ∃ v, countLoop (fuel + 1) u = countLoop fuel v ∧ Counting s (k + 1) (k + 1) v := by
  obtain ⟨v, hread, hv⟩ := h.read hk
  have hroom : v.freq.total ≠ maxChunks v.params := by
    rw [hv.total, hv.params]
    exact hmax.ne
  refine ⟨v.setFreq (v.freq.bump (val (bitsAt s.host.src (s.rd.pos + 8 * k) 8))), ?_, { hv with freq := ?_ }⟩
  · rw [countLoop, hread]
    exact if_neg hroom
  · rw [State.setFreq_freq, hv.freq, bump_tally, chunksAt_succ]

/-- R140: the round past the last whole chunk meets END_OF_STREAM, and the loop ends. -/
theorem Counting.finish (h : Counting s (s.bitsLeft / 8) c u) (fuel : Nat) :
    ∃ v, countLoop (fuel + 1) u = .ok ⟨⟩ v ∧ Counting s (s.bitsLeft / 8) c v := by
  obtain ⟨hparams, hsrc, ⟨hst, hquiet⟩, hpos, hfreq⟩ := h
  obtain ⟨hdraw, hquiet'⟩ := Draws.quiet_draw hquiet
  have hshort : 8 * u.host.src.length < u.rd.pos + 8 := by
    rw [hpos, hsrc, State.bitsLeft]
    omega
  rcases readBits_cases 8 u with ⟨hio, -⟩ | ⟨-, -, hread⟩ | ⟨-, hleft, -⟩
  · rw [hdraw] at hio; cases hio
  · exact ⟨(sourceDraw u).2.refilled 8, by rw [countLoop, hread], hparams, hsrc, ⟨hst, hquiet'⟩, hpos, hfreq⟩
  · omega

/-- R142: the round after `MAX_CHUNKS` counted chunks reads one more and raises CAPACITY. -/
theorem Counting.overflow (h : Counting s k (maxChunks s.params) u) (hk : k < s.bitsLeft / 8) (fuel : Nat) :
    ∃ v, countLoop (fuel + 1) u = .raise .capacity v ∧ Counting s (k + 1) (maxChunks s.params) v := by
  obtain ⟨v, hread, hv⟩ := h.read hk
  refine ⟨v, ?_, hv⟩
  rw [countLoop, hread]
  exact if_pos (by rw [hv.total, hv.params])

theorem countLoop_rounds (h : s.readerReady) (m fuel : Nat) (hleft : m ≤ s.bitsLeft / 8)
    (hmax : m ≤ maxChunks s.params) :
    ∃ u, countLoop (fuel + m) (s.setFreq Freq.zero) = countLoop fuel u ∧ Counting s m m u := by
  induction m generalizing fuel with
  | zero => exact ⟨_, rfl, Counting.start h⟩
  | succ m ih =>
    obtain ⟨u, hu, hcounting⟩ := ih (fuel + 1) (by omega) (by omega)
    obtain ⟨v, hv, hcounting'⟩ := hcounting.round hleft hmax fuel
    exact ⟨v, by rw [← hv, ← hu, Nat.add_assoc, Nat.add_comm 1], hcounting'⟩

/-- The body of FREQ.COUNT has rounds enough for any number of whole chunks and one more. -/
theorem countBody_rounds (h : s.readerReady) {m : Nat} (hleft : m ≤ s.bitsLeft / 8) (hmax : m ≤ maxChunks s.params) :
    ∃ u, countBody s = countLoop (s.host.src.length - m + 1) u ∧ Counting s m m u := by
  have hfuel : s.host.src.length + 1 = s.host.src.length - m + 1 + m := by
    rw [State.bitsLeft] at hleft
    omega
  rw [countBody, hfuel]
  exact countLoop_rounds h m _ hleft hmax

theorem execFreqCount_of_open (hst : s.rd.st = .opened) :
    execFreqCount s = finish ((countBody s).bind fun _ t => .ok (.value (resultWord t.freq.total)) t) := by
  rw [execFreqCount, preCheck_of_open (fun _ => hst) (by simp), Res.bind_ok]

end

/-- Settles O27: the loop counts chunk by chunk until one of its two ends. -/
theorem freqCountTallies : Obligations.FreqCountTallies := by
  intro s hready _
  have hexec : exec .freqCount s = _ := execFreqCount_of_open hready.1
  rw [hexec]
  constructor
  · intro hfits
    obtain ⟨u, hbody, hu⟩ := countBody_rounds hready le_rfl hfits
    obtain ⟨v, hloop, hv⟩ := hu.finish (s.host.src.length - s.bitsLeft / 8)
    rw [hbody, hloop]
    refine ⟨_, rfl, ⟨Answer.value_rstat _, ?_, rfl⟩, hv.freq, hv.pos, hv.ready.1⟩
    exact congrArg resultWord hv.total
  · intro hover
    obtain ⟨u, hbody, hu⟩ := countBody_rounds hready hover.le le_rfl
    obtain ⟨v, hloop, hv⟩ := hu.overflow hover (s.host.src.length - maxChunks s.params)
    rw [hbody, hloop]
    exact ⟨_, rfl, rfl, rfl, hv.freq, hv.pos, hv.ready.1⟩

end Sys2Proof.Machine
end

section
/-! PROOF. O30, RemoveMin (R146): the least pair (weight, seq) is the least key of a linear order, and every policy
takes a node as light as the one with that key. -/

namespace Sys2Proof.Machine

/-- The pair `TB_SEQ` orders Q by, under the lexicographic order (R146). -/
def QNode.key (e : QNode) : ℕ ×ₗ ℕ := toLex (e.tree.weight, e.seq)

theorem QNode.before_iff {a b : QNode} : a.before b = true ↔ a.key < b.key := by
  simp [QNode.before, QNode.key, Prod.Lex.toLex_lt_toLex]

theorem QNode.key_le_iff {a b : QNode} :
    a.key ≤ b.key ↔ a.tree.weight < b.tree.weight ∨ a.tree.weight = b.tree.weight ∧ a.seq ≤ b.seq :=
  Prod.Lex.toLex_le_toLex

theorem QNode.weight_le_of_key_le {a b : QNode} (h : a.key ≤ b.key) : a.tree.weight ≤ b.tree.weight :=
  (QNode.key_le_iff.1 h).elim Nat.le_of_lt fun h => h.1.le

section
variable {x f : QNode} {xs : List QNode}

theorem leastNode_key_le (hf : f ∈ x :: xs) : (leastNode x xs).key ≤ f.key := by
  induction xs generalizing x f with
  | nil => rw [List.mem_singleton.1 hf]; exact le_rfl
  | cons y xs ih =>
    have hbest : (if y.before x then y else x).key ≤ x.key ∧ (if y.before x then y else x).key ≤ y.key := by
      split
      · next h => exact ⟨(QNode.before_iff.1 h).le, le_rfl⟩
      · next h => exact ⟨le_rfl, le_of_not_gt (mt QNode.before_iff.2 h)⟩
    have hfirst := ih (x := if y.before x then y else x) List.mem_cons_self
    rcases List.mem_cons.1 hf with rfl | hf
    · exact hfirst.trans hbest.1
    rcases List.mem_cons.1 hf with rfl | hf
    · exact hfirst.trans hbest.2
    · exact ih (List.mem_cons_of_mem _ hf)

theorem leastNode_weight_le (hf : f ∈ x :: xs) : (leastNode x xs).tree.weight ≤ f.tree.weight :=
  QNode.weight_le_of_key_le (leastNode_key_le hf)

/-- R146: whatever the policy, the node taken weighs as little as the least. -/
theorem chooseMin_weight (tb : TieBreak) (hist : List QueueOp) (x : QNode) (xs : List QNode) :
    (chooseMin tb hist x xs).tree.weight = (leastNode x xs).tree.weight := by
  cases tb with
  | tbSeq => rfl
  | other p =>
    have hleast : leastNode x xs ∈ (x :: xs).filter fun y => y.tree.weight == (leastNode x xs).tree.weight :=
      List.mem_filter.2 ⟨leastNode_mem x xs, beq_self_eq_true _⟩
    exact eq_of_beq (List.mem_filter.1 (getD_mem (List.Subset.refl _) hleast _)).2

end

theorem Queue.removeMin_cons {q : Queue} {x : QNode} {xs : List QNode} (tb : TieBreak)
    (hq : (q.items.map QNode.seq).Nodup) (hitems : q.items = x :: xs) :
    q.removeMin tb = some ((chooseMin tb q.hist x xs).tree,
      { items := q.items.erase (chooseMin tb q.hist x xs), next := q.next, hist := q.hist ++ [.removeMin] }) := by
  rw [← eraseP_seq_eq_erase hq (hitems ▸ chooseMin_mem tb q.hist x xs), Queue.removeMin]
  simp only [hitems]

/-- Settles O30: the node taken is the one `chooseMin` names. -/
theorem removeMinTakesLeast : Obligations.RemoveMinTakesLeast := by
  intro tb q hq hne
  obtain ⟨x, xs, hitems⟩ := List.exists_cons_of_ne_nil hne
  refine ⟨chooseMin tb q.hist x xs, hitems ▸ chooseMin_mem tb q.hist x xs, q.removeMin_cons tb hq hitems, ?_, ?_⟩
  · intro f hf
    rw [chooseMin_weight]
    exact leastNode_weight_le (hitems ▸ hf)
  · rintro rfl f hf
    exact QNode.key_le_iff.1 (leastNode_key_le (hitems ▸ hf))

end Sys2Proof.Machine
end

section
/-! PROOF. O28 and O29, TREE.BUILD (R143 to R149). A merge takes two trees from Q and puts the tree made of them back,
so what it keeps of the collection of trees holds of the one tree left: `mergeLoop_forest`. `Forest` is what is kept. -/

namespace Sys2Proof.Machine

/-! ### Trees by their nodes -/

namespace Tree

theorem leaves_eq (t : Tree) : t.leaves = t.internals + 1 := by
  induction t with
  | leaf y w => rfl
  | internal w l r ihl ihr => rw [leaves, internals]; omega

theorem nnodes_eq (t : Tree) : t.nnodes = 2 * t.internals + 1 := by
  induction t with
  | leaf y w => rfl
  | internal w l r ihl ihr => rw [nnodes, internals]; omega

/-- R156: a full tree is at most as deep as it has internal nodes. -/
theorem depth_le_internals (t : Tree) : t.depth ≤ t.internals := by
  induction t with
  | leaf y w => exact le_rfl
  | internal w l r ihl ihr => rw [depth, internals]; omega

@[simp] theorem symbols_length (t : Tree) : t.symbols.length = t.leaves := by
  induction t with
  | leaf y w => rfl
  | internal w l r ihl ihr => rw [symbols, leaves, List.length_append, ihl, ihr]

theorem depth_pos {t : Tree} (h : 2 ≤ t.leaves) : 1 ≤ t.depth := by
  cases t with
  | leaf y w => exact absurd h (by simp [leaves])
  | internal w l r => exact Nat.le_add_right 1 _

end Tree

/-! ### Merging -/

/-- The trees in Q, without their order and their numbers. -/
def Queue.trees (q : Queue) : Multiset Tree := ↑(q.items.map QNode.tree)

theorem Queue.trees_insert (q : Queue) (t : Tree) : (q.insert t).trees = t ::ₘ q.trees := by
  simp only [Queue.trees, Queue.insert, List.map_append, List.map_cons, List.map_nil]
  exact Multiset.coe_eq_coe.2 (List.perm_append_singleton _ _)

theorem Queue.card_trees (q : Queue) : q.trees.card = q.items.length := by
  rw [Queue.trees, Multiset.coe_card, List.length_map]

theorem Queue.WellNumbered.removeMin_trees {q : Queue} (tb : TieBreak) (hq : q.WellNumbered) (hne : q.items ≠ []) :
    ∃ t r, q.removeMin tb = some (t, r) ∧ r.WellNumbered ∧ q.trees = t ::ₘ r.trees := by
  obtain ⟨e, he, hr⟩ := Queue.removeMin_eq tb hq.distinct hne
  obtain ⟨t, r, hr', hnum, -, -⟩ := hq.removeMin tb hne
  cases hr.symm.trans hr'
  exact ⟨_, _, hr, hnum, Multiset.coe_eq_coe.2 ((List.perm_cons_erase he).map QNode.tree)⟩

/-- R143: what every merge keeps of the trees in Q holds of the one tree left. -/
theorem mergeLoop_forest {P : Multiset Tree → Prop} (tb : TieBreak)
    (hmerge : ∀ a b F, P (a ::ₘ b ::ₘ F) → P (.internal (a.weight + b.weight) a b ::ₘ F)) {fuel : Nat} {q : Queue}
    (hq : q.WellNumbered) (hne : q.items ≠ []) (hfuel : q.items.length ≤ fuel) (hP : P q.trees) :
    ∃ e, (mergeLoop tb fuel q).items = [e] ∧ P {e.tree} := by
  induction fuel generalizing q with
  | zero => exact absurd (List.length_eq_zero_iff.1 (Nat.le_zero.1 hfuel)) hne
  | succ fuel ih =>
    have hpos := List.length_pos_iff.2 hne
    unfold mergeLoop
    by_cases hone : q.items.length ≤ 1
    · obtain ⟨e, he⟩ := List.length_eq_one_iff.1 (Nat.le_antisymm hone hpos)
      rw [if_pos hone]
      rw [Queue.trees, he] at hP
      exact ⟨e, he, hP⟩
    · obtain ⟨a, q1, ha, hq1, htrees1⟩ := hq.removeMin_trees tb hne
      have hlen1 := congrArg Multiset.card htrees1
      rw [Multiset.card_cons, Queue.card_trees, Queue.card_trees] at hlen1
      obtain ⟨b, q2, hb, hq2, htrees2⟩ := hq1.removeMin_trees tb (List.length_pos_iff.1 (by omega))
      have hlen2 := congrArg Multiset.card htrees2
      rw [Multiset.card_cons, Queue.card_trees, Queue.card_trees] at hlen2
      rw [if_neg hone, ha]
      simp only [hb]
      rw [htrees1, htrees2] at hP
      refine ih (hq2.insert _) (List.length_pos_iff.1 (by simp)) (by simp; omega) ?_
      rw [Queue.trees_insert]
      exact hmerge a b _ hP

/-! ### The seeds (R143 to R145) -/

/-- The trees TREE.BUILD seeds Q with, in seeding order. -/
def seeds (cnt : List Nat) : List Tree :=
  if seedLeaves 0 cnt = [] then [.leaf sentinel 1, .leaf 0 0] else seedLeaves 0 cnt ++ [.leaf sentinel 1]

theorem insertAll_trees (q : Queue) (ts : List Tree) : (ts.foldl Queue.insert q).trees = q.trees + ↑ts := by
  induction ts generalizing q with
  | nil => exact (add_zero _).symm
  | cons t ts ih =>
    rw [List.foldl_cons, ih, Queue.trees_insert, ← Multiset.cons_coe, Multiset.cons_add, Multiset.add_cons]

theorem seedQueue_eq_seeds (cnt : List Nat) : seedQueue cnt = (seeds cnt).foldl Queue.insert Queue.empty := by
  have hfew : (((seedLeaves 0 cnt).foldl Queue.insert Queue.empty).insert (.leaf sentinel 1)).items.length < 2 ↔
      seedLeaves 0 cnt = [] := by
    have hlen := (Queue.empty_wellNumbered.insertLeaves fun _ => seedLeaves_nnodes (c := 0) (cnt := cnt)).2.1
    rw [Queue.insert_length, hlen, ← List.length_eq_zero_iff, Queue.empty, List.length_nil]
    omega
  unfold seedQueue seeds
  simp only [hfew]
  split
  · next hnone => rw [hnone]; rfl
  · rw [List.foldl_append]; rfl

theorem seedQueue_trees (cnt : List Nat) : (seedQueue cnt).trees = ↑(seeds cnt) := by
  rw [seedQueue_eq_seeds, insertAll_trees]
  exact zero_add _

theorem seedLeaves_isLeaf {c : Nat} {cnt : List Nat} {t : Tree} (h : t ∈ seedLeaves c cnt) : ∃ y w, t = .leaf y w := by
  have hn := seedLeaves_nnodes h
  cases t with
  | leaf y w => exact ⟨y, w, rfl⟩
  | internal w l r => rw [Tree.nnodes_eq, Tree.internals] at hn; omega

theorem seeds_isLeaf {cnt : List Nat} {t : Tree} (h : t ∈ seeds cnt) : ∃ y w, t = .leaf y w := by
  unfold seeds at h
  split at h
  · simp only [List.mem_cons, List.not_mem_nil, or_false] at h
    rcases h with rfl | rfl <;> exact ⟨_, _, rfl⟩
  · rcases List.mem_append.1 h with h | h
    · exact seedLeaves_isLeaf h
    · exact ⟨_, _, List.mem_singleton.1 h⟩

theorem seedQueue_wellNumbered (cnt : List Nat) :
    (seedQueue cnt).WellNumbered ∧ (seedQueue cnt).items.length = (seeds cnt).length := by
  have hleaf : ∀ t ∈ seeds cnt, t.nnodes = 1 := by
    intro t ht
    obtain ⟨y, w, rfl⟩ := seeds_isLeaf ht
    rfl
  obtain ⟨hnum, hlen, -⟩ := Queue.empty_wellNumbered.insertLeaves hleaf
  rw [seedQueue_eq_seeds]
  exact ⟨hnum, hlen.trans (Nat.zero_add _)⟩

theorem seeds_ne_nil (cnt : List Nat) : seeds cnt ≠ [] := by
  unfold seeds
  split <;> simp

theorem seedLeaves_length (c : Nat) (cnt : List Nat) :
    (seedLeaves c cnt).length = (cnt.filter fun n => 0 < n).length := by
  induction cnt generalizing c with
  | nil => rfl
  | cons n cnt ih =>
    by_cases hn : 0 < n <;> simp [seedLeaves, hn, ih]

theorem seedLeaves_weight (c : Nat) (cnt : List Nat) : ((seedLeaves c cnt).map Tree.weight).sum = cnt.sum := by
  induction cnt generalizing c with
  | nil => rfl
  | cons n cnt ih =>
    by_cases hn : 0 < n
    · simp [seedLeaves, hn, ih, Tree.weight]
    · simp [seedLeaves, ih, Nat.eq_zero_of_not_pos hn]

theorem countedSymbols_eq (cnt : List Nat) : countedSymbols cnt = (seedLeaves 0 cnt).flatMap Tree.symbols := by
  rw [countedSymbols, ← List.flatMap_pure_eq_map]
  refine List.flatMap_congr fun t ht => ?_
  obtain ⟨y, w, rfl⟩ := seedLeaves_isLeaf ht
  rfl

/-- R145: the chunk leaves come in ascending chunk value, each at most once. -/
theorem seedLeaves_symbols {c : Nat} {cnt : List Nat} (h : c + cnt.length ≤ 256) :
    ((seedLeaves c cnt).flatMap Tree.symbols).Nodup ∧
      ∀ y ∈ (seedLeaves c cnt).flatMap Tree.symbols, c ≤ y.val ∧ y.val < 256 := by
  induction cnt generalizing c with
  | nil => exact ⟨List.nodup_nil, fun _ hy => absurd hy List.not_mem_nil⟩
  | cons n cnt ih =>
    rw [List.length_cons] at h
    obtain ⟨hnodup, hrange⟩ := ih (c := c + 1) (by omega)
    have hrange' := fun y hy => And.imp_left Nat.le_of_succ_le (hrange y hy)
    unfold seedLeaves
    split
    · have hc : (Fin.ofNat 257 c).val = c := Nat.mod_eq_of_lt (by omega)
      simp only [List.flatMap_cons, Tree.symbols, List.singleton_append, List.nodup_cons, List.mem_cons]
      refine ⟨⟨fun hmem => ?_, hnodup⟩, ?_⟩
      · have := (hrange _ hmem).1
        omega
      · rintro y (rfl | hy)
        · omega
        · exact hrange' y hy
    · exact ⟨hnodup, hrange'⟩

theorem seededSymbols_eq (cnt : List Nat) : seededSymbols cnt = (seeds cnt).flatMap Tree.symbols := by
  have hnone : countedSymbols cnt = [] ↔ seedLeaves 0 cnt = [] := by
    rw [countedSymbols, List.map_eq_nil_iff]
  unfold seededSymbols seeds
  simp only [hnone]
  split
  · rfl
  · rw [countedSymbols_eq, List.flatMap_append]; rfl

theorem seededSymbols_length (cnt : List Nat) :
    (seededSymbols cnt).length =
      if (cnt.filter fun n => 0 < n).length = 0 then 2 else (cnt.filter fun n => 0 < n).length + 1 := by
  have hlen : (countedSymbols cnt).length = (cnt.filter fun n => 0 < n).length := by
    rw [countedSymbols, List.length_map, seedLeaves_length]
  rw [seededSymbols, ← hlen]
  simp only [List.length_eq_zero_iff]
  split
  · rfl
  · rw [List.length_append]; rfl

theorem seededSymbols_nodup {cnt : List Nat} (h : cnt.length ≤ 256) : (seededSymbols cnt).Nodup := by
  obtain ⟨hnodup, hrange⟩ := seedLeaves_symbols (c := 0) (cnt := cnt) (by omega)
  rw [← countedSymbols_eq] at hnodup hrange
  unfold seededSymbols
  split
  · decide
  · refine hnodup.append (List.nodup_singleton _) (List.disjoint_singleton.2 fun hmem => ?_)
    exact absurd (hrange _ hmem).2 (by decide)

theorem sentinel_mem_seededSymbols (cnt : List Nat) : sentinel ∈ seededSymbols cnt := by
  unfold seededSymbols
  split <;> simp

theorem seeds_weight (cnt : List Nat) : ((seeds cnt).map Tree.weight).sum = cnt.sum + 1 := by
  have hsum := seedLeaves_weight 0 cnt
  unfold seeds
  split
  · next hnone => rw [← hsum, hnone]; rfl
  · rw [List.map_append, List.sum_append, hsum]; rfl

/-! ### The tree built -/

/-- What merging keeps of the trees in Q (R148): their leaf symbols, their total weight, and that weights add up. -/
structure Forest (symbols : Multiset Symbol) (weight : Nat) (F : Multiset Tree) : Prop where
  symbols : (F.bind fun t => ↑t.symbols) = symbols
  weight : (F.map Tree.weight).sum = weight
  sums : ∀ t ∈ F, t.sumsHold = true

theorem Forest.merge {ys : Multiset Symbol} {w : Nat} {a b : Tree} {F : Multiset Tree}
    (h : Forest ys w (a ::ₘ b ::ₘ F)) : Forest ys w (.internal (a.weight + b.weight) a b ::ₘ F) := by
  obtain ⟨hsymbols, hweight, hsums⟩ := h
  simp only [Multiset.cons_bind, Multiset.map_cons, Multiset.sum_cons, Multiset.mem_cons, forall_eq_or_imp,
    ← add_assoc] at hsymbols hweight hsums
  obtain ⟨ha, hb, hF⟩ := hsums
  constructor
  · rw [Multiset.cons_bind, Tree.symbols, ← Multiset.coe_add, hsymbols]
  · rw [Multiset.map_cons, Multiset.sum_cons, Tree.weight, hweight]
  · intro t ht
    rcases Multiset.mem_cons.1 ht with rfl | ht
    · rw [Tree.sumsHold, ha, hb, beq_self_eq_true]; rfl
    · exact hF t ht

theorem seeds_forest (cnt : List Nat) : Forest ↑(seededSymbols cnt) (cnt.sum + 1) ↑(seeds cnt) where
  symbols := by rw [seededSymbols_eq, Multiset.coe_bind]
  weight := by rw [Multiset.map_coe, Multiset.sum_coe, seeds_weight]
  sums t ht := by
    obtain ⟨y, w, rfl⟩ := seeds_isLeaf (Multiset.mem_coe.1 ht)
    rfl

/-- R143, R148: TREE.BUILD makes one tree of what it seeded. -/
theorem buildTree_spec (tb : TieBreak) (cnt : List Nat) :
    ∃ root, buildTree tb cnt = some root ∧ root.symbols.Perm (seededSymbols cnt) ∧ root.weight = cnt.sum + 1 ∧
      root.sumsHold = true := by
  obtain ⟨hnum, hlen⟩ := seedQueue_wellNumbered cnt
  have hne : (seedQueue cnt).items ≠ [] := by
    rw [← List.length_pos_iff, hlen, List.length_pos_iff]
    exact seeds_ne_nil cnt
  have hforest := seeds_forest cnt
  rw [← seedQueue_trees] at hforest
  obtain ⟨e, he, hsymbols, hweight, hsums⟩ := mergeLoop_forest tb (fun _ _ _ => Forest.merge) hnum hne le_rfl hforest
  refine ⟨e.tree, by rw [buildTree, he], Multiset.coe_eq_coe.1 ?_, ?_, hsums _ (Multiset.mem_singleton_self _)⟩
  · rw [← hsymbols, Multiset.singleton_bind]
  · rw [← hweight, Multiset.map_singleton, Multiset.sum_singleton]

theorem chooseMin_pair {x y : QNode} (tb : TieBreak) (hist : List QueueOp) (h : y.tree.weight < x.tree.weight) :
    chooseMin tb hist x [y] = y := by
  have hle : (chooseMin tb hist x [y]).tree.weight ≤ y.tree.weight := by
    rw [chooseMin_weight]
    exact leastNode_weight_le (List.mem_cons_of_mem x List.mem_cons_self)
  rcases List.mem_cons.1 (chooseMin_mem tb hist x [y]) with hx | hy
  · rw [hx] at hle
    exact absurd hle (Nat.not_le.2 h)
  · exact List.mem_singleton.1 hy

theorem chooseMin_single (tb : TieBreak) (hist : List QueueOp) (x : QNode) : chooseMin tb hist x [] = x :=
  List.mem_singleton.1 (chooseMin_mem tb hist x [])

theorem leaves_of_seeded {root : Tree} {cnt : List Nat} (h : root.symbols.Perm (seededSymbols cnt)) :
    root.leaves = if (cnt.filter fun n => 0 < n).length = 0 then 2 else (cnt.filter fun n => 0 < n).length + 1 := by
  rw [← Tree.symbols_length, h.length_eq, seededSymbols_length]

theorem leaves_bounds_of_seeded {root : Tree} {cnt : List Nat} (h : root.symbols.Perm (seededSymbols cnt))
    (hcnt : cnt.length ≤ 256) : 2 ≤ root.leaves ∧ root.leaves ≤ 257 := by
  have hcounted : (cnt.filter fun n => 0 < n).length ≤ 256 := (List.length_filter_le _ _).trans hcnt
  rw [leaves_of_seeded h]
  split <;> omega

/-- R144: the padding leaf weighs least, so it leaves Q first whatever the policy. -/
theorem buildTree_empty (tb : TieBreak) {cnt : List Nat} (h : ∀ c ∈ cnt, c = 0) :
    buildTree tb cnt = some (.internal 1 (.leaf 0 0) (.leaf sentinel 1)) := by
  have hnone : seedLeaves 0 cnt = [] := by
    rw [← List.length_eq_zero_iff, seedLeaves_length, List.length_eq_zero_iff, List.filter_eq_nil_iff]
    intro c hc
    simp [h c hc]
  rw [buildTree, seedQueue_eq_seeds, seeds, if_pos hnone]
  have hfirst (hist : List QueueOp) : chooseMin tb hist ⟨0, .leaf sentinel 1⟩ [⟨1, .leaf 0 0⟩] = ⟨1, .leaf 0 0⟩ :=
    chooseMin_pair tb hist Nat.zero_lt_one
  simp [Queue.insert, Queue.empty, mergeLoop, Queue.removeMin, hfirst, chooseMin_single, Tree.weight]

theorem exec_treeBuild {s : State} {root : Tree} (h : buildTree s.params.tieBreak s.freq.cnt = some root) :
    exec .treeBuild s = .next ((s.loadTree (some root) root.nnodes).answer (.value 0)) := by
  have hbuilt : s.builtTree = s.loadTree (some root) root.nnodes := by
    rw [State.builtTree, h]
    rfl
  rw [← hbuilt]
  rfl

/-- Settles O28: the stores are those `loadTree` writes, with the tree merging ends in. -/
theorem treeBuildLoadsTree : Obligations.TreeBuildLoadsTree := by
  intro s
  obtain ⟨root, hroot, -⟩ := buildTree_spec s.params.tieBreak s.freq.cnt
  refine ⟨_, root, exec_treeBuild hroot, ⟨Answer.value_rstat 0, rfl, rfl⟩, rfl, rfl, rfl, rfl, ⟨rfl, rfl⟩,
    ⟨rfl, rfl, rfl, rfl⟩, ⟨rfl, rfl, rfl, rfl, rfl⟩, fun hzero => ?_⟩
  exact Option.some.inj (hroot.symm.trans (buildTree_empty s.params.tieBreak hzero))

/-- Settles O29: the leaves are the seeds (`buildTree_spec`), and a full tree's shape follows from their number. -/
theorem builtTreeProperties : Obligations.BuiltTreeProperties := by
  intro s t root ⟨hlen, htotal, hmax⟩ ⟨hcntW, hcap⟩ hexec hroot d
  obtain ⟨root', hroot', hsymbols, hweight, hsums⟩ := buildTree_spec s.params.tieBreak s.freq.cnt
  cases (exec_treeBuild hroot').symm.trans hexec
  cases hroot
  obtain ⟨htwo, hmost⟩ := leaves_bounds_of_seeded hsymbols hlen.le
  have hfull := root.leaves_eq
  have hdepth := root.depth_le_internals
  have hnodes : root.nnodes = 2 * root.leaves - 1 := by
    rw [root.nnodes_eq]
    omega
  have hpow : 2 ^ 1 ≤ 2 ^ s.params.cntW := Nat.pow_le_pow_right (by decide) hcntW
  rw [maxChunks] at hmax
  rw [← htotal] at hweight
  exact ⟨hfull, leaves_of_seeded hsymbols, hmost, hsymbols.nodup_iff.2 (seededSymbols_nodup hlen.le),
    hsymbols.mem_iff.2 (sentinel_mem_seededSymbols _), hsymbols, hnodes,
    hnodes.le.trans (by omega), hcap, Tree.depth_pos htwo, by omega, hsums, hweight, by omega⟩

end Sys2Proof.Machine
end

section
/-! PROOF. O31 to O34, CODE.DERIVE (R150 to R156): the table holds the path of each symbol's last leaf, and where leaf
symbols are distinct the codewords are the paths to the leaves (`codes_lookup_iff`). -/

namespace Sys2Proof.Machine

/-! ### Leaves and their paths -/

namespace Tree

theorem mem_leafPaths {t : Tree} {y : Symbol} {p : Bits} :
    (y, p) ∈ t.leafPaths ↔ ∃ w, t.subtree p = some (.leaf y w) := by
  induction t generalizing p with
  | leaf z v =>
    cases p with
    | nil => simp [leafPaths, subtree, eq_comm]
    | cons b p => simp [leafPaths, subtree]
  | internal v l r ihl ihr =>
    match p with
    | [] => simp [leafPaths, subtree]
    | false :: p => simp [leafPaths, subtree, ihl]
    | true :: p => simp [leafPaths, subtree, ihr]

theorem leafPaths_map_fst (t : Tree) : t.leafPaths.map Prod.fst = t.symbols := by
  induction t with
  | leaf y w => rfl
  | internal w l r ihl ihr => simp [leafPaths, symbols, ← ihl, ← ihr, Function.comp_def]

/-- R156: no path to a node is longer than the depth. -/
theorem length_le_depth {t u : Tree} {p : Bits} (h : t.subtree p = some u) : p.length ≤ t.depth := by
  induction t generalizing p with
  | leaf y w =>
    cases p with
    | nil => exact le_rfl
    | cons b p => cases h
  | internal w l r ihl ihr =>
    rw [depth]
    match p, h with
    | [], _ => exact Nat.zero_le _
    | false :: p, h =>
      have hleft := ihl h
      rw [List.length_cons]
      omega
    | true :: p, h =>
      have hright := ihr h
      rw [List.length_cons]
      omega

/-- R155: enough bits lead past a leaf. -/
theorem exists_leaf_prefix {t : Tree} {l : Bits} (h : t.depth ≤ l.length) :
    ∃ p y w, p <+: l ∧ t.subtree p = some (.leaf y w) := by
  induction t generalizing l with
  | leaf y w => exact ⟨[], y, w, List.nil_prefix, rfl⟩
  | internal w l' r ihl ihr =>
    rw [depth] at h
    match l with
    | [] => exact absurd h (by simp)
    | false :: l =>
      obtain ⟨p, y, v, hp, hsub⟩ := ihl (l := l) (by rw [List.length_cons] at h; omega)
      exact ⟨false :: p, y, v, List.cons_prefix_cons.2 ⟨rfl, hp⟩, hsub⟩
    | true :: l =>
      obtain ⟨p, y, v, hp, hsub⟩ := ihr (l := l) (by rw [List.length_cons] at h; omega)
      exact ⟨true :: p, y, v, List.cons_prefix_cons.2 ⟨rfl, hp⟩, hsub⟩

/-- R153: a path that goes on after a leaf leads nowhere. -/
theorem eq_of_prefix_of_leaf {t : Tree} {p q : Bits} {y z : Symbol} {v w : Nat} (hp : t.subtree p = some (.leaf y v))
    (hq : t.subtree q = some (.leaf z w)) (hpq : p <+: q) : y = z := by
  obtain ⟨e, rfl⟩ := hpq
  rw [subtree_append, hp, Option.bind_some] at hq
  cases e with
  | nil => cases hq; rfl
  | cons b e => cases hq

end Tree

/-! ### The table -/

theorem CodeTable.lookup_set {cw : CodeTable} (hlen : cw.length = 257) (y z : Symbol) (p : Bits) :
    CodeTable.lookup (cw.set y.val (some p)) z.val = if y = z then some p else cw.lookup z.val := by
  rw [CodeTable.lookup, CodeTable.lookup, List.getD_eq_getElem?_getD, List.getD_eq_getElem?_getD, List.getElem?_set]
  have hy : y.val < cw.length := by rw [hlen]; exact y.isLt
  by_cases h : y = z
  · subst h; simp [hy]
  · simp [h, Fin.val_ne_of_ne h]

theorem CodeTable.lookup_lt {cw : CodeTable} (hlen : cw.length = 257) {y : Nat} {p : Bits}
    (h : cw.lookup y = some p) : y < 257 := by
  by_contra hy
  rw [CodeTable.lookup, List.getD_eq_default _ _ (by omega)] at h
  cases h

theorem CodeTable.empty_length : CodeTable.empty.length = 257 := List.length_replicate

@[simp] theorem CodeTable.empty_lookup (y : Nat) : CodeTable.empty.lookup y = none := by
  rw [CodeTable.lookup, CodeTable.empty, List.getD_eq_getElem?_getD, List.getElem?_replicate]
  split <;> rfl

@[simp] theorem Tree.visit_length (t : Tree) (p : Bits) (cw : CodeTable) : (t.visit p cw).length = cw.length := by
  induction t generalizing p cw with
  | leaf y w => exact List.length_set
  | internal w l r ihl ihr => rw [visit, ihr, ihl]

theorem Tree.codes_length (t : Tree) : t.codes.length = 257 := by
  rw [codes, visit_length, CodeTable.empty_length]

/-- The path of the last leaf with symbol `y`, left first (R152). -/
def Tree.lastPath (t : Tree) (y : Symbol) : Option Bits :=
  (t.leafPaths.reverse.find? fun x => x.1 == y).map Prod.snd

theorem Tree.lastPath_leaf (z y : Symbol) (w : Nat) : (Tree.leaf z w).lastPath y = if z = y then some [] else none := by
  by_cases h : z = y <;> simp [lastPath, leafPaths, h]

theorem Tree.lastPath_internal (w : Nat) (l r : Tree) (y : Symbol) :
    (Tree.internal w l r).lastPath y = ((r.lastPath y).map (true :: ·)).or ((l.lastPath y).map (false :: ·)) := by
  simp [lastPath, leafPaths, Option.map_or, Function.comp_def, ← List.map_reverse]

/-- R150, R152: a visit records the last leaf's path over what the table held. -/
theorem Tree.visit_lookup (t : Tree) (p : Bits) {cw : CodeTable} (hlen : cw.length = 257) (y : Symbol) :
    (t.visit p cw).lookup y.val = ((t.lastPath y).map (p ++ ·)).or (cw.lookup y.val) := by
  induction t generalizing p cw with
  | leaf z w =>
    rw [visit, CodeTable.lookup_set hlen, lastPath_leaf]
    split <;> simp
  | internal w l r ihl ihr =>
    rw [visit, ihr _ ((visit_length ..).trans hlen), ihl _ hlen, lastPath_internal, Option.map_or, Option.or_assoc]
    simp [Function.comp_def]

theorem Tree.codes_lookup (t : Tree) (y : Symbol) : t.codes.lookup y.val = t.lastPath y := by
  rw [codes, visit_lookup t [] CodeTable.empty_length, CodeTable.empty_lookup]
  simp

theorem Tree.mem_leafPaths_of_codes {t : Tree} {y : Symbol} {p : Bits} (h : t.codes.lookup y.val = some p) :
    (y, p) ∈ t.leafPaths := by
  rw [codes_lookup, lastPath, Option.map_eq_some_iff] at h
  obtain ⟨⟨z, q⟩, hfind, rfl⟩ := h
  have hz := List.find?_some hfind
  cases eq_of_beq hz
  exact List.mem_reverse.1 (List.mem_of_find?_eq_some hfind)

/-- Every codeword is the path to a leaf of its symbol. -/
theorem Tree.subtree_of_codes {t : Tree} {y : Nat} {p : Bits} (h : t.codes.lookup y = some p) :
    ∃ (z : Symbol) (w : Nat), z.val = y ∧ t.subtree p = some (.leaf z w) := by
  have hy := CodeTable.lookup_lt t.codes_length h
  obtain ⟨w, hw⟩ := mem_leafPaths.1 (mem_leafPaths_of_codes (y := ⟨y, hy⟩) h)
  exact ⟨⟨y, hy⟩, w, rfl, hw⟩

/-- R150: every leaf's symbol has a codeword. -/
theorem Tree.codes_of_mem {t : Tree} {y : Symbol} (h : y ∈ t.symbols) : ∃ p, t.codes.lookup y.val = some p := by
  rw [← leafPaths_map_fst] at h
  obtain ⟨⟨z, q⟩, hmem, rfl⟩ := List.mem_map.1 h
  rw [codes_lookup, lastPath, ← Option.isSome_iff_exists, Option.isSome_map, List.find?_isSome]
  exact ⟨_, List.mem_reverse.2 hmem, beq_self_eq_true _⟩

/-- R153: where leaf symbols are distinct the codeword of a symbol is the path to its leaf. -/
theorem Tree.codes_lookup_iff {t : Tree} (ht : t.symbols.Nodup) {y : Symbol} {p : Bits} :
    t.codes.lookup y.val = some p ↔ ∃ w, t.subtree p = some (.leaf y w) := by
  rw [← mem_leafPaths]
  refine ⟨mem_leafPaths_of_codes, fun h => ?_⟩
  obtain ⟨q, hq⟩ := codes_of_mem (leafPaths_map_fst t ▸ List.mem_map_of_mem h)
  rw [← leafPaths_map_fst] at ht
  have heq := List.inj_on_of_nodup_map ht h (mem_leafPaths_of_codes hq) rfl
  cases heq
  exact hq

/-! ### CODE.DERIVE -/

theorem exec_codeDerive {s : State} {u : Tree} (h : s.tree.root = some u) :
    exec .codeDerive s = .next ((s.setCode { valid := true, cw := u.codes }).answer (.value 0)) := by
  have hexec : exec .codeDerive s = finish ((deriveBody s).bind fun _ s => .ok (.value 0) s) := rfl
  rw [hexec, deriveBody_some h]
  rfl

/-- Settles O31: the table is `Tree.codes`. -/
theorem codeDeriveRecordsPaths : Obligations.CodeDeriveRecordsPaths := by
  intro s u hroot
  exact ⟨_, exec_codeDerive hroot, ⟨Answer.value_rstat 0, rfl, rfl⟩, rfl, u.codes_length, u.codes_lookup, rfl, rfl, rfl,
    ⟨rfl, rfl⟩, ⟨rfl, rfl, rfl, rfl⟩, ⟨rfl, rfl, rfl, rfl, rfl⟩⟩

/-- Settles O32: a codeword leads to a leaf, and no path goes on past one. -/
theorem prefixFreeCode : Obligations.PrefixFreeCode := by
  intro s t u hroot hnodup hexec
  cases (exec_codeDerive hroot).symm.trans hexec
  refine ⟨fun y z p q hp hq hpq => ?_, fun y p => Tree.codes_lookup_iff hnodup⟩
  obtain ⟨y', v, rfl, hleaf⟩ := Tree.subtree_of_codes hp
  obtain ⟨z', w, rfl, hleaf'⟩ := Tree.subtree_of_codes hq
  exact congrArg Fin.val (Tree.eq_of_prefix_of_leaf hleaf hleaf' hpq)

theorem Tree.code_length_le_depth {t : Tree} {y : Nat} {p : Bits} (h : t.codes.lookup y = some p) :
    p.length ≤ t.depth := by
  obtain ⟨_, _, -, hsub⟩ := subtree_of_codes h
  exact length_le_depth hsub

/-- R154: only a tree that is one leaf has an empty codeword. -/
theorem Tree.code_ne_nil {t : Tree} (ht : 1 ≤ t.depth) {y : Nat} {p : Bits} (h : t.codes.lookup y = some p) :
    p ≠ [] := by
  rintro rfl
  obtain ⟨z, w, -, hsub⟩ := subtree_of_codes h
  rw [subtree_nil, Option.some_inj] at hsub
  rw [hsub, depth] at ht
  cases ht

/-- Settles O33: a codeword is a path, and a path is no longer than the depth. -/
theorem codewordLengths : Obligations.CodewordLengths := by
  refine ⟨rfl, fun s t u hroot hexec => ?_, fun s ⟨hcnt, _⟩ => ?_⟩
  · cases (exec_codeDerive hroot).symm.trans hexec
    have hnodes := u.nnodes_eq
    have hdepth := u.depth_le_internals
    refine ⟨by omega, hdepth, fun y p hp => ?_⟩
    have hp := Tree.code_length_le_depth hp
    exact ⟨hp, fun hcap => by rw [codeMax]; omega⟩
  · obtain ⟨root, hroot, hsymbols, -⟩ := buildTree_spec s.params.tieBreak s.freq.cnt
    obtain ⟨htwo, hmost⟩ := leaves_bounds_of_seeded hsymbols hcnt.le
    refine ⟨_, _, exec_treeBuild hroot, exec_codeDerive rfl, ?_, fun y p hp => ⟨?_, ?_⟩⟩
    · exact Tree.codes_of_mem (hsymbols.mem_iff.2 (sentinel_mem_seededSymbols _))
    · exact Tree.code_ne_nil (Tree.depth_pos htwo) hp
    · have hfull := root.leaves_eq
      have hdepth := root.depth_le_internals
      have hlen := Tree.code_length_le_depth hp
      omega

/-! ### The Kraft sum (R155) -/

theorem Tree.lastPath_eq_none {t : Tree} {y : Symbol} (h : y ∉ t.symbols) : t.lastPath y = none := by
  rw [lastPath, Option.map_eq_none_iff, List.find?_eq_none]
  rintro x hx heq
  rw [← leafPaths_map_fst] at h
  exact h (List.mem_map.2 ⟨x, List.mem_reverse.1 hx, eq_of_beq heq⟩)

theorem kraftSum_set {cw : CodeTable} (hlen : cw.length = 257) {y : Symbol} (hfree : cw.lookup y.val = none)
    (p : Bits) :
    ((cw.set y.val (some p)).map kraftTerm).sum = (cw.map kraftTerm).sum + (1 / 2) ^ p.length := by
  have hy : y.val < cw.length := by rw [hlen]; exact y.isLt
  have hnone : cw[y.val] = none := by rwa [CodeTable.lookup, List.getD_eq_getElem _ _ hy] at hfree
  rw [List.map_set, List.sum_set', dif_pos (by rwa [List.length_map]), List.getElem_map, hnone, kraftTerm, kraftTerm,
    neg_zero, zero_add]

/-- R155: where leaf symbols are distinct and new to the table, the leaves below a node at path `p` add what one leaf
there would. -/
theorem Tree.kraftSum_visit {t : Tree} (ht : t.symbols.Nodup) (p : Bits) {cw : CodeTable} (hlen : cw.length = 257)
    (hfree : ∀ y ∈ t.symbols, cw.lookup y.val = none) :
    ((t.visit p cw).map kraftTerm).sum = (cw.map kraftTerm).sum + (1 / 2) ^ p.length := by
  induction t generalizing p cw with
  | leaf y w => exact kraftSum_set hlen (hfree y (List.mem_singleton_self y)) p
  | internal w l r ihl ihr =>
    obtain ⟨hl, hr, hdisjoint⟩ := List.nodup_append'.1 ht
    have hfreel : ∀ y ∈ l.symbols, cw.lookup y.val = none := fun y hy => hfree y (List.mem_append_left _ hy)
    have hfreer : ∀ y ∈ r.symbols, (l.visit (p ++ [false]) cw).lookup y.val = none := by
      intro y hy
      rw [visit_lookup l _ hlen, lastPath_eq_none (hdisjoint.symm hy), hfree y (List.mem_append_right _ hy)]
      rfl
    rw [visit, ihr hr _ ((visit_length ..).trans hlen) hfreer, ihl hl _ hlen hfreel]
    simp only [List.length_append, List.length_singleton, pow_succ]
    ring

/-- Settles O34: the leaves add up to a leaf at the root, and enough bits lead past a leaf. -/
theorem kraftEquality : Obligations.KraftEquality := by
  intro s t u hroot hnodup hexec
  cases (exec_codeDerive hroot).symm.trans hexec
  constructor
  · have hempty : (CodeTable.empty.map kraftTerm).sum = 0 := by
      rw [CodeTable.empty, List.map_replicate, List.sum_replicate, kraftTerm, smul_zero]
    have hsum := Tree.kraftSum_visit hnodup [] CodeTable.empty_length fun y _ => CodeTable.empty_lookup y.val
    rwa [hempty, List.length_nil, pow_zero, zero_add] at hsum
  · intro l hl
    obtain ⟨p, y, w, hp, hsub⟩ := Tree.exists_leaf_prefix hl
    exact ⟨p, y.val, hp, (Tree.codes_lookup_iff hnodup).2 ⟨w, hsub⟩⟩

end Sys2Proof.Machine
end

section
/-! PROOF. O36 to O40, the tree codec (R170 to R177). `Des()` is followed node by node: `ReadPast s a t` says that the
state `t` is `s` with the bits `a` read. A tree's pre-order bits give the tree (`desTree_ser`), and the first nodes of a
tree lead to whatever `Des()` raises at the node after them (`desTree_headBits`). -/

namespace Sys2Proof.Machine

/-! ### The serialized length (R171) -/

theorem Tree.ser_length (u : Tree) : u.ser.length = 10 * u.leaves + u.internals := by
  induction u with
  | leaf y w => rw [ser, List.length_cons, bitsOf_length]; rfl
  | internal w l r ihl ihr => rw [ser, List.length_cons, List.length_append, ihl, ihr, leaves, internals]; ring

/-- Settles O36: a full tree has one leaf more than internal nodes, and TREE.BUILD seeds at most 257 leaves. -/
theorem serializedLength : Obligations.SerializedLength := by
  have hlen (u : Tree) : u.ser.length = 11 * u.leaves - 1 := by
    have hfull := u.leaves_eq
    rw [u.ser_length]
    omega
  refine ⟨fun u => ⟨u.ser_length, hlen u⟩, fun s t u ⟨hcnt, _⟩ hexec hroot => ?_⟩
  obtain ⟨root, hbuilt, hsymbols, -⟩ := buildTree_spec s.params.tieBreak s.freq.cnt
  cases (exec_treeBuild hbuilt).symm.trans hexec
  cases hroot
  obtain ⟨-, hmost⟩ := leaves_bounds_of_seeded hsymbols hcnt.le
  exact ⟨hmost, by rw [hlen]; omega⟩

/-! ### Reading on -/

/-- `t` is `s` with the bits `a` read, its reader ready again. -/
structure ReadPast (s : State) (a : Bits) (t : State) : Prop where
  frame : readFrame s t
  ready : t.readerReady
  pos : t.rd.pos = s.rd.pos + a.length

section
variable {s t u : State} {a b : Bits}

theorem ReadPast.nodeCap (h : ReadPast s a t) : t.params.nodeCap = s.params.nodeCap := by rw [h.frame]; rfl

theorem ReadPast.nextBits (h : ReadPast s a t) (hnext : s.nextBits (a ++ b)) : t.nextBits b :=
  State.nextBits_after hnext h.pos (by rw [h.frame]; rfl)

theorem ReadPast.nil (h : s.readerReady) : ReadPast s [] s := ⟨rfl, h, rfl⟩

theorem ReadPast.append (h : ReadPast s a t) (h' : ReadPast t b u) : ReadPast s (a ++ b) u :=
  ⟨readFrame_trans h.frame h'.frame, h'.ready, by rw [h'.pos, h.pos, List.length_append, Nat.add_assoc]⟩

/-- R102: a ready reader reads the next bits. -/
theorem readBits_nextBits (h : s.readerReady) (hnext : s.nextBits a) :
    ∃ t, readBits a.length s = .ok (val a) t ∧ ReadPast s a t := by
  obtain ⟨hst, hquiet⟩ := h
  obtain ⟨hleft, hbits⟩ := hnext
  refine ⟨((sourceDraw s).2.refilled a.length).advanced a.length, ?_, rfl, ⟨hst, (Draws.quiet_draw hquiet).2⟩, rfl⟩
  rw [readBits_quiet hquiet hleft, hbits]

end

/-! ### `Des()`, node by node (R172) -/

section
variable {s : State} {fuel k : Nat} (hready : s.readerReady)
include hready

/-- R172, R173: at a leaf's bits, `Des()` makes the leaf or refuses its symbol. -/
theorem desTree_leafBits {y : Nat} (hk : k ≠ s.params.nodeCap) (hfuel : fuel ≠ 0) (hy : y < 2 ^ 9)
    (hnext : s.nextBits (true :: bitsOf 9 y)) :
    ∃ t, ReadPast s (true :: bitsOf 9 y) t ∧
      desTree fuel k s = if h : y < 257 then .ok (.leaf ⟨y, h⟩ 0, k + 1) t else .raise .symbolRange t := by
  have hnext : s.nextBits ([true] ++ bitsOf 9 y) := hnext
  obtain ⟨t, hmarker, ht⟩ := readBits_nextBits hready (State.nextBits_left hnext)
  obtain ⟨v, hsymbol, hv⟩ := readBits_nextBits ht.ready (ht.nextBits hnext)
  rw [bitsOf_length, val_bitsOf, Nat.mod_eq_of_lt hy] at hsymbol
  refine ⟨v, ht.append hv, ?_⟩
  obtain ⟨fuel, rfl⟩ := Nat.exists_eq_succ_of_ne_zero hfuel
  change readBits 1 s = .ok 1 t at hmarker
  rw [desTree, if_neg hk, hmarker, Res.bind_ok, if_neg Nat.one_ne_zero, hsymbol, Res.bind_ok]

/-- R172: at the marker of an internal node, `Des()` goes on to its two children. -/
theorem desTree_internalBit (hk : k ≠ s.params.nodeCap) (hfuel : fuel ≠ 0) (hnext : s.nextBits [false]) :
    ∃ t, ReadPast s [false] t ∧
      desTree fuel k s = (desTree (fuel - 1) (k + 1) t).bind fun left t =>
        (desTree (fuel - 1) left.2 t).bind fun right t => .ok (.internal 0 left.1 right.1, right.2) t := by
  obtain ⟨t, hmarker, ht⟩ := readBits_nextBits hready hnext
  refine ⟨t, ht, ?_⟩
  obtain ⟨fuel, rfl⟩ := Nat.exists_eq_succ_of_ne_zero hfuel
  change readBits 1 s = .ok 0 t at hmarker
  rw [desTree, if_neg hk, hmarker, Res.bind_ok, if_pos rfl, Nat.succ_sub_one]

/-- R172, R177: `Des()` reads a tree of the nodes left to it, and stops at the tree's last bit. -/
theorem desTree_ser (u : Tree) (hcap : k + u.nnodes ≤ s.params.nodeCap) (hfuel : s.params.nodeCap < fuel + k)
    (hnext : s.nextBits u.ser) :
    ∃ t, desTree fuel k s = .ok (u.weightless, k + u.nnodes) t ∧ ReadPast s u.ser t := by
  induction u generalizing fuel k s with
  | leaf y w =>
    rw [Tree.nnodes] at hcap
    obtain ⟨t, ht, hdes⟩ := desTree_leafBits (k := k) (fuel := fuel) hready (by omega) (by omega)
      (y.isLt.trans (by decide)) hnext
    rw [dif_pos y.isLt] at hdes
    exact ⟨t, hdes, ht⟩
  | internal w l r ihl ihr =>
    rw [Tree.nnodes] at hcap
    have hnext : s.nextBits ([false] ++ (l.ser ++ r.ser)) := hnext
    obtain ⟨t, ht, hdes⟩ := desTree_internalBit (k := k) (fuel := fuel) hready (by omega) (by omega)
      (State.nextBits_left hnext)
    have hnext := ht.nextBits hnext
    have hcapt := ht.nodeCap
    obtain ⟨v, hleft, hv⟩ := ihl ht.ready (k := k + 1) (fuel := fuel - 1) (by omega) (by omega)
      (State.nextBits_left hnext)
    have hcapv := hv.nodeCap
    obtain ⟨x, hright, hx⟩ := ihr hv.ready (k := k + 1 + l.nnodes) (fuel := fuel - 1) (by omega) (by omega)
      (hv.nextBits hnext)
    have hcount : k + 1 + l.nnodes + r.nnodes = k + (1 + l.nnodes + r.nnodes) := by omega
    refine ⟨x, ?_, ht.append (hv.append hx)⟩
    rw [hdes, hleft, Res.bind_ok, hright, Res.bind_ok, Tree.weightless, Tree.nnodes, hcount]

end

/-! ### The first nodes of a tree (R173, R174) -/

@[simp] theorem Tree.headBits_zero (u : Tree) : u.headBits 0 = [] := rfl

theorem Tree.headBits_internal_left {w j : Nat} {l r : Tree} (h : j ≤ l.nnodes) :
    (Tree.internal w l r).headBits (j + 1) = [false] ++ l.headBits j := by
  rw [headBits, nodeBits, List.take_succ_cons, List.flatten_cons, List.take_append_of_le_length (by simpa using h),
    headBits]

theorem Tree.headBits_internal_right {w : Nat} {l r : Tree} (j : Nat) :
    (Tree.internal w l r).headBits (l.nnodes + j + 1) = [false] ++ (l.ser ++ r.headBits j) := by
  rw [headBits, nodeBits, List.take_succ_cons, List.flatten_cons, ← l.nodeBits_length, List.take_length_add_append,
    List.flatten_append, nodeBits_flatten, headBits]

/-- `Des()` raises `e` with the cursor at `pos`. -/
def DesStops (fuel k : Nat) (s : State) (e : Err) (pos : Nat) : Prop :=
  ∃ t, desTree fuel k s = .raise e t ∧ t.rd.pos = pos

/-- Past the first `j` nodes of a tree with more, `Des()` is at a node again, and ends in what it raises there. -/
theorem desTree_headBits {s : State} {fuel k : Nat} {e : Err} {pos : Nat} (u : Tree) {j : Nat}
    (hready : s.readerReady) (hj : j < u.nnodes) (hcap : k + j ≤ s.params.nodeCap)
    (hfuel : s.params.nodeCap < fuel + k) (hnext : s.nextBits (u.headBits j))
    (hstops : ∀ fuel' t, s.params.nodeCap < fuel' + (k + j) → ReadPast s (u.headBits j) t →
      DesStops fuel' (k + j) t e pos) :
    DesStops fuel k s e pos := by
  induction u generalizing fuel k s j with
  | leaf y w =>
    obtain rfl : j = 0 := Nat.lt_one_iff.1 hj
    exact hstops fuel s hfuel (.nil hready)
  | internal w l r ihl ihr =>
    cases j with
    | zero => exact hstops fuel s hfuel (.nil hready)
    | succ j =>
      rw [Tree.nnodes] at hj
      by_cases hl : j < l.nnodes
      · rw [Tree.headBits_internal_left hl.le] at hnext hstops
        obtain ⟨t, ht, hdes⟩ := desTree_internalBit (k := k) (fuel := fuel) hready (by omega) (by omega)
          (State.nextBits_left hnext)
        have hcapt := ht.nodeCap
        have hcount : k + 1 + j = k + (j + 1) := by omega
        obtain ⟨v, hleft, hpos⟩ := ihl ht.ready hl (k := k + 1) (fuel := fuel - 1) (by omega) (by omega)
          (ht.nextBits hnext) fun fuel' v hfuel' hv => by
            rw [hcount]
            exact hstops fuel' v (by omega) (ht.append hv)
        exact ⟨v, by rw [hdes, hleft, Res.bind_raise], hpos⟩
      · obtain ⟨j, rfl⟩ := Nat.exists_eq_add_of_le (Nat.le_of_not_lt hl)
        rw [Tree.headBits_internal_right] at hnext hstops
        obtain ⟨t, ht, hdes⟩ := desTree_internalBit (k := k) (fuel := fuel) hready (by omega) (by omega)
          (State.nextBits_left hnext)
        have hnext := ht.nextBits hnext
        have hcapt := ht.nodeCap
        obtain ⟨v, hleft, hv⟩ := desTree_ser ht.ready l (k := k + 1) (fuel := fuel - 1) (by omega) (by omega)
          (State.nextBits_left hnext)
        have hcapv := hv.nodeCap
        have hcount : k + 1 + l.nnodes + j = k + (l.nnodes + j + 1) := by omega
        obtain ⟨x, hright, hpos⟩ := ihr hv.ready (j := j) (by omega) (k := k + 1 + l.nnodes) (fuel := fuel - 1)
          (by omega) (by omega) (hv.nextBits hnext) fun fuel' x hfuel' hx => by
            rw [hcount]
            exact hstops fuel' x (by omega) (ht.append (hv.append hx))
        exact ⟨x, by rw [hdes, hleft, Res.bind_ok, hright, Res.bind_raise], hpos⟩

/-- R174: with `NODE_CAP` nodes read, `Des()` reads no more. -/
theorem desTree_nodeCap (fuel : Nat) (s : State) : desTree fuel s.params.nodeCap s = .raise .nodeCap s := by
  cases fuel with
  | zero => rfl
  | succ fuel => rw [desTree, if_pos rfl]

/-! ### TREE.DESER (R172) -/

section
variable {s : State}

theorem deserBody_of_ok {x : Tree × Nat} {t : State} (h : desTree (s.params.nodeCap + 1) 0 s = .ok x t) :
    deserBody s = .ok (t.rd.pos - s.rd.pos) (t.loadTree (some x.1) x.2) := by
  rw [deserBody, h]; rfl

theorem deserBody_of_raise {e : Err} {t : State} (h : desTree (s.params.nodeCap + 1) 0 s = .raise e t) :
    deserBody s = .raise e t.failLoad := by
  rw [deserBody, h]; rfl

/-- R172: over the pre-order bits of a tree within `NODE_CAP`, TREE.DESER's body loads the tree. -/
theorem deserBody_ser {u : Tree} (hready : s.readerReady) (hnext : s.nextBits u.ser)
    (hcap : u.nnodes ≤ s.params.nodeCap) :
    ∃ t, deserBody s = .ok u.ser.length (t.loadTree (some u.weightless) u.nnodes) ∧ ReadPast s u.ser t := by
  obtain ⟨t, hdes, ht⟩ := desTree_ser (fuel := s.params.nodeCap + 1) (k := 0) hready u (by omega) (by omega) hnext
  refine ⟨t, ?_, ht⟩
  rw [deserBody_of_ok hdes, ht.pos, Nat.add_sub_cancel_left, Nat.zero_add]

theorem execTreeDeser_of_open (hst : s.rd.st = .opened) :
    execTreeDeser s = finish ((deserBody s).bind fun bits t => .ok (.value (countWord 0x32 bits)) t) := by
  rw [execTreeDeser, preCheck_of_open (fun _ => hst) (by simp), Res.bind_ok]

/-- R175: what TREE.DESER answers where `Des()` raises. -/
theorem execTreeDeser_of_desStops {e : Err} {pos : Nat} (hst : s.rd.st = .opened)
    (h : DesStops (s.params.nodeCap + 1) 0 s e pos) :
    ∃ t, execTreeDeser s = .next t ∧ t.rstat = e.rstat ∧ t.rval = 0 ∧ t.rd.pos = pos := by
  obtain ⟨t, hdes, hpos⟩ := h
  refine ⟨t.failLoad.answerError e, ?_, rfl, rfl, hpos⟩
  rw [execTreeDeser_of_open hst, deserBody_of_raise hdes]
  rfl

end

/-- Settles O37: the body loads the tree, and answers the bits it read. -/
theorem deserReadsTree : Obligations.DeserReadsTree := by
  intro s u hready hnext hcap
  obtain ⟨t, hbody, ht⟩ := deserBody_ser hready hnext hcap
  refine ⟨(t.loadTree (some u.weightless) u.nnodes).answer (.value (countWord 0x32 u.ser.length)), ?_,
    ⟨Answer.value_rstat _, rfl, rfl⟩, rfl, rfl, rfl, ht.pos, ht.ready.1⟩
  change execTreeDeser s = _
  rw [execTreeDeser_of_open hready.1, hbody]
  rfl

/-- Settles O40: the node past the first `k` holds the bad leaf, or is one node too many. -/
theorem deserRefusesBadHeaders : Obligations.DeserRefusesBadHeaders := by
  refine fun s u hready => ⟨fun k y hk hcap hbad hy hnext => execTreeDeser_of_desStops hready.1 ?_,
    fun hmore hnext => execTreeDeser_of_desStops hready.1 ?_⟩
  · refine desTree_headBits u hready hk (by omega) (by omega) (State.nextBits_left hnext) fun fuel t hfuel ht => ?_
    have hcapt := ht.nodeCap
    obtain ⟨v, hv, hdes⟩ := desTree_leafBits (k := 0 + k) (fuel := fuel) ht.ready (by omega) (by omega) hy
      (ht.nextBits hnext)
    rw [dif_neg (by omega)] at hdes
    exact ⟨v, hdes, by rw [hv.pos, ht.pos, List.length_cons, bitsOf_length]⟩
  · refine desTree_headBits u hready hmore (by omega) (by omega) hnext fun fuel t _ ht => ⟨t, ?_, ht.pos⟩
    rw [Nat.zero_add, ← ht.nodeCap, desTree_nodeCap]

/-! ### No tree in the store (R175) -/

section
variable {s : State} (h : s.tree.root = none)
include h

theorem exec_codeDerive_noTree : exec .codeDerive s = .next (s.answerError .noTree) := by
  change execCodeDerive s = _
  rw [execCodeDerive, deriveBody_none h]
  rfl

theorem exec_treeSer_noTree (hst : s.wr.st = .opened) : exec .treeSer s = .next (s.answerError .noTree) := by
  change execTreeSer s = _
  rw [execTreeSer, preCheck_of_open (by simp) fun _ => hst, Res.bind_ok, serBody_none h]
  rfl

theorem exec_decStep_noTree (hst : s.rd.st = .opened) : exec .decStep s = .next (s.answerError .noTree) := by
  change execDecStep s = _
  rw [execDecStep, preCheck_of_open (fun _ => hst) (by simp), Res.bind_ok, decBody_none h]
  rfl

end

/-- Settles O39: an error is raised by `Des()`, and `failLoad` empties the stores before it is answered. -/
theorem deserFailureEmptiesStore : Obligations.DeserFailureEmptiesStore := by
  intro s t hst hexec hfailed
  change execTreeDeser s = .next t at hexec
  rw [execTreeDeser_of_open hst] at hexec
  rcases deserBody_cases s with ⟨x, u, -, hbody⟩ | ⟨e, u, -, hbody⟩
  · rw [hbody] at hexec
    cases hexec
    exact absurd (Answer.value_rstat _) hfailed
  · rw [hbody] at hexec
    cases hexec
    exact ⟨rfl, rfl, rfl, exec_codeDerive_noTree rfl, exec_treeSer_noTree rfl, exec_decStep_noTree rfl⟩

/-! ### The round trip (R176) -/

/-- R170: TREE.SER on a ready writer, which stays ready. -/
theorem exec_treeSer_complete {s : State} {u : Tree} (hready : s.writerReady) (hroot : s.tree.root = some u) :
    ∃ t, exec .treeSer s = .next t ∧ t.written = s.written ++ u.ser ∧ t.writerReady := by
  obtain ⟨t, ht, hkept⟩ := writeList_of_writerReady u.ser hready
  refine ⟨t.answer (.value (countWord 0x31 (10 * u.leaves + u.internals))), ?_, hkept⟩
  change execTreeSer s = _
  rw [execTreeSer, preCheck_of_open (by simp) fun _ => hready.1, Res.bind_ok, serBody_some hroot, ht]
  rfl

/-- Settles O38: `OUT` begins with the tree's bits, and TREE.DESER reads a tree where its bits are next (O37). -/
theorem treeCodecRoundTrip : Obligations.TreeCodecRoundTrip := by
  intro s u hready hempty hroot hcap
  obtain ⟨t, hser, hwritten, hready'⟩ := exec_treeSer_complete hready hroot
  obtain ⟨v, hclose, -, hbits, -⟩ := execWrClose_complete hready'
  rw [hwritten, hempty, List.nil_append] at hbits
  refine ⟨v.answer (.value 0), ?_, fun r hr hpos hparams hsrc => ?_⟩
  · have hclose : exec .wrClose t = .next (v.answer (.value 0)) := hclose
    simp only [execAll, hser, hclose]
  · have hnext : r.nextBits u.ser := by
      refine State.nextBits_of_prefix hpos ?_
      rw [hsrc, State.answer_host, hbits]
      exact List.prefix_append _ _
    obtain ⟨x, hexec, ⟨hok, -⟩, htree, -, -, hread, -⟩ := deserReadsTree r u hr hnext (by rwa [hparams])
    exact ⟨x, hexec, hok, by rw [htree], by rw [hread, hpos, Nat.zero_add, u.ser_length]⟩

end Sys2Proof.Machine
end

section
/-! PROOF. O42, O43 and O44, ENC.SYM (R190, R191) and the refusals of commands on structures not loaded: ENC.SYM on an
OPEN writer is its two refusals and then one WriteList, and a WriteList of a joined list is the chain of WriteLists. -/

namespace Sys2Proof.Machine

section
variable {s : State} {y : Nat} (hst : s.wr.st = .opened)
include hst

/-- R190: ENC.SYM past its PreCheck. -/
theorem exec_encSym_of_open : exec (.encSym y) s = finish
    (if 256 < y then .raise .symRange s
      else if s.code.valid = false then .raise .noCodeTable s
      else (encodeSymbol y s).bind fun len t => .ok (.value (countWord 0x41 len)) t) := by
  change execEncSym y s = _
  rw [execEncSym, preCheck_of_open (by simp) fun _ => hst, Res.bind_ok]

/-- R190: with a valid code table and a symbol in range ENC.SYM is the encoding of the symbol. -/
theorem exec_encSym_of_valid (hy : y ≤ 256) (hvalid : s.code.valid = true) : exec (.encSym y) s = finish
    ((encodeSymbol y s).bind fun len t => .ok (.value (countWord 0x41 len)) t) := by
  rw [exec_encSym_of_open hst, if_neg (Nat.not_lt.2 hy), if_neg (by simp [hvalid])]

end

/-- Settles O42: the codeword is one WriteList to a ready writer. -/
theorem encSymTransmits : Obligations.EncSymTransmits := by
  intro y w s hready hvalid hy hw
  obtain ⟨t, ht, hwritten, hst, hpend, -⟩ := writeList_of_writerReady w hready
  refine ⟨t.answer (.value (countWord 0x41 w.length)), ?_, ⟨Answer.value_rstat _, rfl, rfl⟩, hwritten, hst, hpend⟩
  rw [exec_encSym_of_valid hready.1 hy hvalid, encodeSymbol_some hw, ht]
  rfl

theorem exec_decStep_notReady {s : State} {root : Tree} (hst : s.rd.st = .opened) (hroot : s.tree.root = some root)
    (hdec : s.dec.st ≠ .ready) : exec .decStep s = .next (s.answerError .decoderNotReady) := by
  change execDecStep s = _
  rw [execDecStep, preCheck_of_open (fun _ => hst) (by simp), Res.bind_ok, decBody_notReady hroot hdec]
  rfl

/-- Settles O43: ENC.SYM refuses in the order of its tests; without a tree the other three answer NO_TREE, and a loaded
tree leaves DEC.STEP its own test. -/
theorem structureRefusals : Obligations.StructureRefusals := by
  refine ⟨fun y s hst => ⟨fun hy => ?_, fun hy hvalid => ?_, fun hy hvalid hnone => ?_⟩,
    fun s hroot => ⟨exec_codeDerive_noTree hroot, exec_treeSer_noTree hroot, exec_decStep_noTree hroot⟩,
    fun s hst hroot hdec => ?_⟩
  · rw [exec_encSym_of_open hst, if_pos hy]
    rfl
  · rw [exec_encSym_of_open hst, if_neg (Nat.not_lt.2 hy), if_pos hvalid]
    rfl
  · rw [exec_encSym_of_valid hst hy hvalid, encodeSymbol_none hnone]
    rfl
  · obtain ⟨root, hroot⟩ := Option.ne_none_iff_exists'.1 hroot
    exact exec_decStep_notReady hst hroot hdec

/-- R124: writing a list as a number of its width is writing the list. -/
theorem writeBits_val (w : Bits) (s : State) : writeBits w.length (val w) s = writeList w s := by
  rw [writeBits, bitsOf_val]

/-- R191: what is left of a chain of writes, after any start, is one WriteList. -/
theorem foldl_writeBits (ws : List Bits) (r : Res PUnit) :
    ws.foldl (fun r w => r.bind fun _ s => writeBits w.length (val w) s) r =
      r.bind fun _ s => writeList ws.flatten s := by
  induction ws generalizing r with
  | nil => cases r <;> rfl
  | cons w ws ih =>
    rw [List.foldl_cons, ih, Res.bind_assoc]
    simp only [writeBits_val, List.flatten_cons, writeList_append]

/-- Settles O44: the chain from the state itself. -/
theorem longCodewordIsChained : Obligations.LongCodewordIsChained :=
  fun ws s _ => (foldl_writeBits ws (.ok ⟨⟩ s)).symm

end Sys2Proof.Machine
end

section
/-! PROOF. O52, the frame of DEC.STEP, COMPRESS and DECOMPRESS (R192, R210, R213). A decoding step keeps the tables
(`TablesKept`), and reading and loading a tree keeps the frequency table. COMPRESS writes the decoder once, where its
tree enters the store: counting raises before that, and no later piece raises CAPACITY or touches the decoder. -/

namespace Sys2Proof.Machine

/-! ### DEC.STEP and DECOMPRESS -/

/-- What O52 says of DEC.STEP, but for the host side. -/
def TablesKept (s₀ t : State) : Prop := t.freq = s₀.freq ∧ t.tree = s₀.tree ∧ t.code = s₀.code

section
variable {s₀ s t : State} (h : TablesKept s₀ s)
include h

theorem TablesKept.of_readFrame (hf : readFrame s t) : TablesKept s₀ t := by
  rw [hf]
  exact h

theorem TablesKept.of_writeFrame (hf : writeFrame s t) : TablesKept s₀ t := by
  rw [hf]
  exact h

theorem emitSymbol_tablesKept (y : Symbol) : TablesKept s₀ (emitSymbol y s).state :=
  have hwrite : TablesKept s₀ ((writerTakes s).bind fun _ s => writeBits 8 y.val s).state :=
    preCheck_bind_state h (h.of_writeFrame (writeList_writeFrame s _))
  Res.bind_state_of (Res.onRaise_state_of hwrite fun _ ht => ht) fun _ _ ht => ht

theorem reachNode_tablesKept (u : Tree) : TablesKept s₀ (reachNode u s).state := by
  cases u with
  | internal w l r => exact h
  | leaf y w =>
    unfold reachNode
    dsimp only
    split
    · exact h
    · exact emitSymbol_tablesKept h y

theorem decBody_tablesKept : TablesKept s₀ (decBody s).state := by
  cases hroot : s.tree.root with
  | none => rw [decBody_none hroot]; exact h
  | some root =>
    by_cases hd : s.dec.st = .ready
    · cases hl : root.isLeaf with
      | true => rw [decBody_leafRoot hroot hd hl]; exact h
      | false =>
        rw [decBody_ready hroot hd hl]
        have hread := h.of_readFrame (readBits_readFrame 1 s)
        refine Res.bind_state_of (Res.onRaise_state_of hread fun _ ht => ht) fun b t ht => ?_
        split
        · exact ht
        · next u _ => exact Res.bind_state_of (reachNode_tablesKept (s := t.descended (b != 0)) ht u) fun _ _ hv => hv
    · rw [decBody_notReady hroot hd]; exact h

end

theorem decodeLoop_tablesKept {s₀ s : State} (h : TablesKept s₀ s) (fuel e : Nat) :
    TablesKept s₀ (decodeLoop fuel e s).state := by
  induction fuel generalizing e s with
  | zero => exact h
  | succ fuel ih =>
    refine Res.bind_state_of (decBody_tablesKept h) fun ev t ht => ?_
    match ev with
    | none => exact ht
    | some .continued => exact ih ht e
    | some (.emitted _) => exact ih ht (e + 1)
    | some .done => exact ht

theorem checkMagic_readFrame (s : State) : readFrame s (checkMagic s).state := by
  have hread := readBits_readFrame 32 s
  unfold checkMagic
  split <;> rename_i hr <;> rw [hr] at hread
  · split <;> exact hread
  · exact hread
  · exact hread

/-- What O52 says of DECOMPRESS, but for the host side. -/
def FreqKept (s₀ t : State) : Prop := t.freq = s₀.freq

theorem closeDecoded_freqKept {s₀ s : State} (h : FreqKept s₀ s) (e : Option Nat) :
    FreqKept s₀ (closeDecoded e s).state := by
  cases e with
  | none => exact h
  | some k =>
    have hclose : FreqKept s₀ (closeOpenWriter (s.setMacroStep 5)).state := by
      rw [closeOpenWriter_writeFrame]
      exact h
    exact Res.bind_state_of hclose fun _ _ ht => ht

/-- R213: the steps of DECOMPRESS in order. -/
theorem decompressBody_freqKept (s : State) : FreqKept s (decompressBody s).state := by
  have hmagic : FreqKept s (checkMagic (s.setMacroStep 1)).state := by
    rw [checkMagic_readFrame]
    rfl
  have hdeser (t : State) (ht : FreqKept s t) : FreqKept s (deserBody (t.setMacroStep 2)).state :=
    (deserBody_outsideLoaderKept _).2.trans ht
  have hdecode (fuel : Nat) (t : State) (ht : FreqKept s t) :
      FreqKept s (decodeLoop fuel 0 ((t.setMacroStep 3).setMacroStep 4)).state :=
    (decodeLoop_tablesKept ⟨rfl, rfl, rfl⟩ _ 0).1.trans ht
  exact Res.bind_state_of hmagic fun _ t ht => Res.bind_state_of (hdeser t ht) fun _ t ht =>
    Res.bind_state_of (hdecode _ t ht) fun e _ ht => closeDecoded_freqKept ht e

/-- The rule for the end of a command that may meet an undefined subtree. -/
theorem finishDefined_state_of {P : State → Prop} {t : State} {r : Res (Option Answer)}
    (ht : finishDefined r = .next t) (h : P r.state) (hok : ∀ a u, P u → P (u.answer a))
    (herr : ∀ e u, P u → P (u.answerError e)) : P t := by
  rcases finishDefined_next ht with ⟨a, u, rfl, rfl⟩ | ⟨e, u, rfl, rfl⟩
  · exact hok a u h
  · exact herr e u h

theorem execDecStep_tablesKept {s t : State} (h : execDecStep s = .next t) : TablesKept s t := by
  have hs : TablesKept s s := ⟨rfl, rfl, rfl⟩
  refine finishDefined_state_of h (preCheck_bind_state hs ?_) (fun _ _ hu => hu) fun _ _ hu => hu
  exact Res.bind_state_of (decBody_tablesKept hs) fun _ _ ht => ht

theorem execDecompress_freqKept {s t : State} (h : execDecompress s = .next t) : FreqKept s t := by
  refine finishDefined_state_of h (preCheck_bind_state rfl ?_) (fun _ _ hu => hu) fun _ _ hu => hu
  exact Res.bind_state_of (decompressBody_freqKept s) fun _ _ ht => ht

/-! ### COMPRESS: the causes -/

/-- The causes COMPRESS can answer once it has counted (R193). -/
def passErrors : List Err := [.sourceIO, .sinkIO, .noTree, .noCodeword]

section
variable {s : State}

theorem rewindBody_passErrors : (rewindBody s).Raises fun e _ => e ∈ passErrors := by
  intro e t h
  rcases rewindBody_cases s with ⟨u, hr, -⟩ | ⟨u, hr, -⟩ <;> cases hr.symm.trans h
  exact List.mem_cons_self

theorem writeList_passErrors (l : Bits) : (writeList l s).Raises fun e _ => e ∈ passErrors := by
  induction l generalizing s with
  | nil => exact Res.raises_ok _ s
  | cons b l ih =>
    refine Res.Raises.bind (fun e t h => ?_) fun _ _ => ih
    obtain ⟨rfl, -⟩ := writeBit_raise h
    decide

theorem serBody_passErrors : (serBody s).Raises fun e _ => e ∈ passErrors := by
  cases hr : s.tree.root with
  | none => rw [serBody_none hr]; exact Res.raises_raise.2 (by decide)
  | some u => rw [serBody_some hr]; exact (writeList_passErrors _).respond

theorem deriveBody_passErrors : (deriveBody s).Raises fun e _ => e ∈ passErrors := by
  cases hr : s.tree.root with
  | none => rw [deriveBody_none hr]; exact Res.raises_raise.2 (by decide)
  | some u => rw [deriveBody_some hr]; exact Res.raises_ok _ _

theorem encodeSymbol_passErrors (y : Nat) : (encodeSymbol y s).Raises fun e _ => e ∈ passErrors := by
  cases hy : s.code.cw.lookup y with
  | none => rw [encodeSymbol_none hy]; exact Res.raises_raise.2 (by decide)
  | some w => rw [encodeSymbol_some hy]; exact (writeList_passErrors w).respond

/-- R192: END_OF_STREAM ends the loop, so a chunk that is not read raises only SOURCE_IO. -/
theorem encodeLoop_passErrors (fuel k : Nat) : (encodeLoop fuel k s).Raises fun e _ => e ∈ passErrors := by
  induction fuel generalizing k s with
  | zero => exact Res.raises_ok k s
  | succ fuel ih =>
    unfold encodeLoop
    split
    · exact (encodeSymbol_passErrors _).bind fun _ _ => ih _
    · exact Res.raises_ok k _
    · next e t hend hr =>
      obtain ⟨-, -, ⟨rfl, -⟩ | ⟨rfl, -⟩⟩ := readBits_raise hr
      · exact Res.raises_raise.2 (by decide)
      · exact absurd rfl hend

theorem closeOpenWriter_passErrors : (closeOpenWriter s).Raises fun e _ => e ∈ passErrors := by
  intro e t h
  obtain ⟨rfl, -⟩ := closeOpenWriter_raise h
  decide

end

/-! ### COMPRESS: the decoder -/

/-- The decoder is at the root of a tree just loaded (R147). -/
def AtRoot (t : State) : Prop := t.dec = { st := .ready, path := [] }

section
variable {s t : State} (h : AtRoot s)
include h

theorem AtRoot.of_readFrame (hf : readFrame s t) : AtRoot t := by
  rw [hf]
  exact h

theorem AtRoot.of_writeFrame (hf : writeFrame s t) : AtRoot t := by
  rw [hf]
  exact h

theorem deriveBody_atRoot : AtRoot (deriveBody s).state := by
  cases hr : s.tree.root with
  | none => rw [deriveBody_none hr]; exact h
  | some u => rw [deriveBody_some hr]; exact h

theorem encodeLoop_atRoot (fuel k : Nat) : AtRoot (encodeLoop fuel k s).state := by
  induction fuel generalizing k s with
  | zero => exact h
  | succ fuel ih =>
    have hread := h.of_readFrame (readBits_readFrame 8 s)
    unfold encodeLoop
    split <;> rename_i hr <;> rw [hr] at hread
    · exact Res.bind_state_of (hread.of_writeFrame (encodeSymbol_writeFrame _ _)) fun _ _ ht => ih ht _
    · exact hread
    · exact hread

end

/-- R192, R193: counting ends COMPRESS with the decoder as it was, or the decoder is at the root of the new tree. -/
theorem compressBody_decoder (s : State) :
    (∃ e t, compressBody s = .raise e t ∧ (e = .sourceIO ∨ e = .capacity) ∧ t.dec = s.dec) ∨
    (AtRoot (compressBody s).state ∧ (compressBody s).Raises fun e _ => e ∈ passErrors) := by
  have hcount := countBody_countFrame (s.setMacroStep 1)
  unfold compressBody
  cases hr : countBody (s.setMacroStep 1) with
  | raise e t =>
    rw [hr] at hcount
    refine .inl ⟨e, t, rfl, ?_, by rw [show t = _ from hcount]; rfl⟩
    obtain ⟨-, ⟨rfl, -⟩ | ⟨rfl, -⟩⟩ := countLoop_raise hr
    · exact .inl rfl
    · exact .inr rfl
  | ok _ t =>
    rw [Res.bind_ok]
    refine .inr ⟨?_, ?_⟩
    · have hbuilt : AtRoot ((t.setMacroStep 2).builtTree.setMacroStep 3) := rfl
      exact Res.bind_state_of (hbuilt.of_readFrame (rewindBody_readFrame _)) fun _ t (ht : AtRoot (t.setMacroStep 4)) =>
        Res.bind_state_of (ht.of_writeFrame (writeList_writeFrame _ _)) fun _ t (ht : AtRoot (t.setMacroStep 5)) =>
        Res.bind_state_of (ht.of_writeFrame (serBody_writeFrame _)) fun _ t (ht : AtRoot (t.setMacroStep 6)) =>
        Res.bind_state_of (deriveBody_atRoot ht) fun _ t (ht : AtRoot (t.setMacroStep 7)) =>
        Res.bind_state_of (encodeLoop_atRoot ht _ 0) fun _ t (ht : AtRoot (t.setMacroStep 8)) =>
        Res.bind_state_of (ht.of_writeFrame (encodeSymbol_writeFrame _ _)) fun _ t (ht : AtRoot (t.setMacroStep 9)) =>
        Res.bind_state_of (ht.of_writeFrame (closeOpenWriter_writeFrame _)) fun _ _ ht => ht
    · exact rewindBody_passErrors.bind fun _ _ => (writeList_passErrors _).bind fun _ _ =>
        serBody_passErrors.bind fun _ _ => deriveBody_passErrors.bind fun _ _ =>
        (encodeLoop_passErrors _ 0).bind fun _ _ => (encodeSymbol_passErrors _).bind fun _ _ =>
        closeOpenWriter_passErrors.respond

/-- The three ways COMPRESS ends: refused by its PreCheck, or as its body does (R192). -/
theorem execCompress_cases {s t : State} (h : execCompress s = .next t) :
    (∃ e, t = s.answerError e ∧ (e = .unitClosed ∨ e = .stickyRd ∨ e = .stickyWr)) ∨
    (∃ e u, compressBody s = .raise e u ∧ t = u.answerError e) ∨
    (∃ k u, compressBody s = .ok k u ∧ t = u.answer (.value (resultWord k))) := by
  rw [execCompress, finish_next] at h
  subst h
  cases hpre : preCheck [.rd, .wr] s with
  | raise e u =>
    obtain ⟨rfl, he⟩ := preCheck_eq_raise hpre
    exact .inl ⟨e, rfl, he⟩
  | ok _ u =>
    obtain ⟨rfl, -⟩ := preCheck_eq_ok.1 hpre
    rw [Res.bind_ok]
    cases hbody : compressBody u with
    | raise e v => exact .inr (.inl ⟨e, v, rfl, rfl⟩)
    | ok k v => exact .inr (.inr ⟨k, v, rfl, rfl⟩)

/-- What O52 says of the decoder after COMPRESS. -/
def CompressDecoder (s t : State) : Prop :=
  (t.dec = s.dec ∨ AtRoot t) ∧
  (t.rstat = 0 ∨ t.rstat = Err.sinkIO.rstat ∨ t.rstat = Err.noCodeword.rstat → AtRoot t) ∧
  (t.rstat ∈ [Err.unitClosed.rstat, Err.stickyRd.rstat, Err.stickyWr.rstat, Err.capacity.rstat] → t.dec = s.dec)

/-- A cause that comes before the tree is built leaves the decoder as it was. -/
theorem CompressDecoder.of_kept {s t : State} {e : Err} (hdec : t.dec = s.dec) (hrstat : t.rstat = e.rstat)
    (he : e ≠ .sinkIO ∧ e ≠ .noCodeword) : CompressDecoder s t := by
  refine ⟨.inl hdec, ?_, fun _ => hdec⟩
  rw [hrstat]
  rintro (h | h | h)
  · exact absurd h e.rstat_ne_zero
  · exact absurd (Err.rstat_injective h) he.1
  · exact absurd (Err.rstat_injective h) he.2

/-- An answer that comes after the tree is built leaves the decoder at its root. -/
theorem CompressDecoder.of_atRoot {s t : State} (hdec : AtRoot t)
    (hrstat : t.rstat ∉ [Err.unitClosed, .stickyRd, .stickyWr, .capacity].map Err.rstat) : CompressDecoder s t :=
  ⟨.inr hdec, fun _ => hdec, fun h => absurd h hrstat⟩

theorem execCompress_decoder {s t : State} (h : execCompress s = .next t) : CompressDecoder s t := by
  rcases execCompress_cases h with ⟨e, rfl, he⟩ | ⟨e, u, hbody, rfl⟩ | ⟨k, u, hbody, rfl⟩
  · exact .of_kept (e := e) rfl rfl (by rcases he with rfl | rfl | rfl <;> decide)
  · rcases compressBody_decoder s with ⟨f, v, hv, hf, hdec⟩ | ⟨hdec, hraises⟩
    · cases hv.symm.trans hbody
      exact .of_kept (e := e) hdec rfl (by rcases hf with rfl | rfl <;> decide)
    · rw [hbody] at hdec
      have he := hraises e u hbody
      refine .of_atRoot hdec fun hmem => ?_
      obtain ⟨f, hf, heq⟩ := List.mem_map.1 hmem
      cases Err.rstat_injective heq
      revert he hf
      cases e <;> decide
  · rcases compressBody_decoder s with ⟨f, v, hv, -⟩ | ⟨hdec, -⟩
    · cases hv.symm.trans hbody
    · rw [hbody] at hdec
      refine .of_atRoot hdec fun hmem => ?_
      obtain ⟨f, -, heq⟩ := List.mem_map.1 hmem
      exact absurd heq.symm (Answer.rstat_ne_error _ f)

/-- Settles O52, command by command; the host side is O12. -/
theorem decoderAndMacroFrame : Obligations.DecoderAndMacroFrame := by
  intro i s t hi h
  obtain ⟨hfixed, hout⟩ := commandsKeepHostSide i s t h
  refine ⟨hfixed, hout, ?_⟩
  rcases hi with rfl | rfl | rfl
  · exact ⟨fun _ => execDecStep_tablesKept h, nofun, nofun, nofun, nofun⟩
  · obtain ⟨hdec, hroot, hkept⟩ := execCompress_decoder h
    exact ⟨nofun, nofun, fun _ => hdec, fun _ => hroot, fun _ => hkept⟩
  · exact ⟨nofun, fun _ => execDecompress_freqKept h, nofun, nofun, nofun⟩

end Sys2Proof.Machine
end

section
/-! PROOF. Bytes, chunks and the symbols a tree is built for, as COMPRESS meets them: bytes and their bits determine
each other (R51), the chunks of a source read from its start are its bytes (R140), and every chunk counted, with the
sentinel, has a codeword in the code of the tree built (R145, R150). -/

namespace Sys2Proof.Machine

/-! ### Bytes and chunks -/

theorem bytesBits_cons (b : Byte) (bs : List Byte) : bytesBits (b :: bs) = bitsOf 8 b.toNat ++ bytesBits bs :=
  List.flatMap_cons

theorem val_bitsOf_byte (b : Byte) : val (bitsOf 8 b.toNat) = b.toNat := by
  rw [val_bitsOf, Nat.mod_eq_of_lt b.isLt]

/-- R9: the high bits of a number, then the low ones. -/
theorem bitsOf_add (m n v : Nat) : bitsOf (m + n) v = bitsOf m (v >>> n) ++ bitsOf n v := by
  induction m with
  | zero => rw [Nat.zero_add]; rfl
  | succ m ih => rw [Nat.succ_add, bitsOf, bitsOf, ih, Nat.testBit_shiftRight, Nat.add_comm m, List.cons_append]

theorem bitsOf_mod (n v : Nat) : bitsOf n (v % 2 ^ n) = bitsOf n v := by
  have h := bitsOf_val (bitsOf n v)
  rwa [bitsOf_length, val_bitsOf] at h

theorem bytesBits_injective : Function.Injective bytesBits := by
  intro as
  induction as with
  | nil =>
    intro bs h
    have hnil : bs = [] := by simpa using congrArg List.length h.symm
    exact hnil.symm
  | cons a as ih =>
    intro bs h
    cases bs with
    | nil => simpa using congrArg List.length h
    | cons b bs =>
      rw [bytesBits_cons, bytesBits_cons] at h
      obtain ⟨hfirst, hrest⟩ := List.append_inj h (by simp)
      have hval := congrArg val hfirst
      rw [val_bitsOf_byte, val_bitsOf_byte] at hval
      rw [BitVec.eq_of_toNat_eq hval, ih hrest]

/-- R90: whole bytes need no padding. -/
theorem padding_bytesBits_append (bs : List Byte) (l : Bits) : padding (bytesBits bs ++ l) = padding l := by
  rw [padding, padding, List.length_append, bytesBits_length, Nat.mul_add_mod]

theorem val_bitsAt_byte {src : List Byte} {i : Nat} {b : Byte} (h : src[i]? = some b) :
    val (bitsAt src (8 * i) 8) = b.toNat := by
  rw [bitsAt_byte h, val_bitsOf_byte]

theorem chunksAt_start (src : List Byte) : chunksAt src 0 src.length = src.map BitVec.toNat := by
  refine List.ext_getElem (by simp [chunksAt]) fun i _ hi => ?_
  rw [List.length_map] at hi
  simp [chunksAt, val_bitsAt_byte (List.getElem?_eq_getElem hi)]

/-! ### The symbols of a built tree -/

/-- R143, R145: a counter that is not 0 has its leaf among the seeds. -/
theorem leaf_mem_seedLeaves {cnt : List Nat} {i : Nat} (hi : i < cnt.length) (hpos : 0 < cnt[i]) (c : Nat) :
    .leaf (Fin.ofNat 257 (c + i)) cnt[i] ∈ seedLeaves c cnt := by
  induction cnt generalizing c i with
  | nil => cases hi
  | cons n cnt ih =>
    unfold seedLeaves
    cases i with
    | zero =>
      rw [if_pos (show 0 < n from hpos)]
      exact List.mem_cons_self
    | succ i =>
      have hmem := ih (Nat.lt_of_succ_lt_succ hi) hpos (c + 1)
      rw [Nat.add_assoc, Nat.add_comm 1] at hmem
      split
      · exact List.mem_cons_of_mem _ hmem
      · exact hmem

theorem seedLeaves_subset_seeds (cnt : List Nat) : seedLeaves 0 cnt ⊆ seeds cnt := by
  unfold seeds
  split
  · next hnone => rw [hnone]; exact List.nil_subset _
  · exact List.subset_append_left _ _

theorem chunk_mem_seededSymbols {chunks : List Nat} {y : Symbol} (hmem : y.val ∈ chunks) (hy : y.val < 256) :
    y ∈ seededSymbols (tally chunks).cnt := by
  have hpos : 0 < (tally chunks).cnt[y.val]'(by simpa [tally] using hy) := by
    simpa [tally] using List.count_pos_iff.2 hmem
  have hleaf := seedLeaves_subset_seeds _ (leaf_mem_seedLeaves _ hpos 0)
  rw [seededSymbols_eq]
  refine List.mem_flatMap.2 ⟨_, hleaf, ?_⟩
  simp [Tree.symbols]

/-- R145, R150: the code of the tree built has a codeword for every symbol seeded. -/
theorem built_codeword {tb : TieBreak} {cnt : List Nat} {root : Tree} (hroot : buildTree tb cnt = some root)
    {y : Symbol} (hy : y ∈ seededSymbols cnt) : ∃ w, root.codes.lookup y.val = some w := by
  obtain ⟨root', hroot', hsymbols, -⟩ := buildTree_spec tb cnt
  cases hroot.symm.trans hroot'
  exact Tree.codes_of_mem (hsymbols.mem_iff.2 hy)

end Sys2Proof.Machine
end

section
/-! PROOF. O45 and O48, COMPRESS (R192 to R195). `Progress s root code n l t` follows it from the state `s` past its
build: where its cursor is, what it has written, and the stores it has made. Each piece takes one such
state to another, or raises, which a run that `Unhindered s` describes does not do; so one chain over the pieces gives
both what an OK answer leaves and that ready units get one. -/

namespace Sys2Proof.Machine

/-! ### Counting (R140) -/

/-- `u` is `s` after counting to the end of the source; from a ready reader the table is the tally of its chunks. -/
structure Counted (s u : State) : Prop where
  params : u.params = s.params
  src : u.host.src = s.host.src
  writer : writerKept s u
  rdSt : u.rd.st = s.rd.st
  srcQuiet : s.readerReady → u.host.srcErr.quiet
  freq : s.readerReady → u.freq = tally (chunksAt s.host.src s.rd.pos (s.bitsLeft / 8))

/-- What makes COMPRESS of `s` answer OK: ports that answer, room for the count, and every byte counted. -/
structure Unhindered (s : State) : Prop where
  reader : s.readerReady
  sink : s.host.sinkErr.quiet
  room : s.bitsLeft / 8 ≤ maxChunks s.params
  counted : ∀ c ∈ s.host.src, c.toNat ∈ chunksAt s.host.src s.rd.pos (s.bitsLeft / 8)

/-- R140, R142: counting raises only a source fault or CAPACITY. -/
theorem countBody_counted (s : State) (k : Fin 10) :
    (countBody (s.setMacroStep k)).Ends (fun _ => Counted s) fun _ => ¬ Unhindered s := by
  have hcounted {u : State} (hf : countFrame (s.setMacroStep k) u) (hst : u.rd.st = s.rd.st)
      (hquiet : s.readerReady → u.host.srcErr.quiet)
      (hfreq : s.readerReady → u.freq = tally (chunksAt s.host.src s.rd.pos (s.bitsLeft / 8))) : Counted s u :=
    ⟨by rw [hf]; rfl, by rw [hf]; rfl, (OutsideCounterKept.of_countFrame hf).1, hst, hquiet, hfreq⟩
  have hframe := countBody_countFrame (s.setMacroStep k)
  by_cases hready : (s.setMacroStep k).readerReady
  · by_cases hroom : (s.setMacroStep k).bitsLeft / 8 ≤ maxChunks (s.setMacroStep k).params
    · obtain ⟨u, hbody, hu⟩ := countBody_rounds hready le_rfl hroom
      obtain ⟨v, hloop, hv⟩ := hu.finish (s.host.src.length - s.bitsLeft / 8)
      rw [hbody.trans hloop] at hframe ⊢
      exact hcounted hframe (hv.ready.1.trans hready.1.symm) (fun _ => hv.ready.2) fun _ => hv.freq
    · obtain ⟨u, hbody, hu⟩ := countBody_rounds hready (Nat.le_of_not_le hroom) le_rfl
      obtain ⟨v, hloop, -⟩ := hu.overflow (Nat.lt_of_not_le hroom) (s.host.src.length - maxChunks s.params)
      rw [hbody.trans hloop]
      exact fun h => hroom h.room
  · cases hbody : countBody (s.setMacroStep k) with
    | ok _ u =>
      rw [hbody] at hframe
      exact hcounted hframe (countLoop_ok hbody).2 (fun h => absurd h hready) fun h => absurd h hready
    | raise e u => exact fun h => hready h.reader

theorem Counted.setMacroStep {s u : State} (h : Counted s u) (k : Fin 10) : Counted s (u.setMacroStep k) := { h with }

/-! ### The pieces past the build (R192) -/

/-- COMPRESS of `s` has built `root`; its cursor is at `n`, it has written `l`, and its code table is `code`. -/
structure Progress (s : State) (root : Tree) (code : Code) (n : Nat) (l : Bits) (t : State) : Prop where
  params : t.params = s.params
  src : t.host.src = s.host.src
  built : buildTree s.params.tieBreak t.freq.cnt = some root
  freq : s.readerReady → t.freq = tally (chunksAt s.host.src s.rd.pos (s.bitsLeft / 8))
  tree : t.tree = { root := some root, nnodes := root.nnodes }
  code : t.code = code
  dec : AtRoot t
  rdSt : t.rd.st = s.rd.st
  pos : t.rd.pos = n
  written : t.written = s.written ++ l
  pend : t.wr.pend.length ≤ 7
  srcQuiet : s.readerReady → t.host.srcErr.quiet
  sinkQuiet : s.host.sinkErr.quiet → t.host.sinkErr.quiet

/-- R143: what counting and building leave, before the rewind. -/
theorem Counted.build {s u : State} {root : Tree} (h : Counted s u) (hpend : s.wr.pend.length ≤ 7)
    (hroot : buildTree s.params.tieBreak u.freq.cnt = some root) :
    Progress s root Code.none u.rd.pos [] u.builtTree := by
  obtain ⟨hwr, hout, hsink, -⟩ := h.writer
  have hwritten : u.written = s.written ++ [] := by rw [State.written, State.written, hwr, hout, List.append_nil]
  have hbuilt : u.builtTree = u.loadTree (some root) root.nnodes := by
    rw [State.builtTree, h.params, hroot]
    rfl
  rw [hbuilt]
  exact {
    params := h.params
    src := h.src
    built := hroot
    freq := h.freq
    tree := rfl
    code := rfl
    dec := rfl
    rdSt := h.rdSt
    pos := rfl
    written := hwritten
    pend := le_of_eq_of_le (congrArg (fun w => w.pend.length) hwr) hpend
    srcQuiet := h.srcQuiet
    sinkQuiet := fun hquiet => by rw [State.loadTree_host, hsink]; exact hquiet }

theorem CodeTable.word_of_lookup {cw : CodeTable} {y : Nat} {w : Bits} (h : cw.lookup y = some w) : cw.word y = w := by
  rw [CodeTable.word, h, Option.getD_some]

section
variable {s t : State} {root : Tree} {code : Code} {n : Nat} {l : Bits} (h : Progress s root code n l t)
include h

theorem Progress.setMacroStep (k : Fin 10) : Progress s root code n l (t.setMacroStep k) := { h with }

theorem Progress.setCode (c : Code) : Progress s root c n l (t.setCode c) := { h with code := rfl }

/-- R104: a rewind raises only where the source refuses. -/
theorem Progress.rewind : (rewindBody t).Ends (fun _ => Progress s root code 0 l) fun _ => ¬ Unhindered s := by
  rcases rewindBody_cases t with ⟨u, hr, hrd, hf, hdraws, -⟩ | ⟨u, hr, -, -, hdraw⟩ <;> rw [hr]
  · have hst : u.rd.st = s.rd.st := by rw [hrd]; exact h.rdSt
    have hpos : u.rd.pos = 0 := by rw [hrd]
    have hquiet (hready : s.readerReady) : u.host.srcErr.quiet := by
      rw [hdraws]
      exact (Draws.quiet_draw (Draws.quiet_draw (h.srcQuiet hready)).2).2
    change Progress s root code 0 l u
    rw [hf]
    exact { h with rdSt := hst, pos := hpos, srcQuiet := hquiet }
  · intro hfree
    obtain ⟨hfirst, hquiet⟩ := Draws.quiet_draw (h.srcQuiet hfree.reader)
    rcases hdraw with hdraw | hdraw
    · exact Bool.false_ne_true (hfirst.symm.trans hdraw)
    · exact Bool.false_ne_true ((Draws.quiet_draw hquiet).1.symm.trans hdraw)

/-- R122: a WriteList raises only where the sink refuses. -/
theorem Progress.write (m : Bits) :
    (writeList m t).Ends (fun _ => Progress s root code n (l ++ m)) fun _ => ¬ Unhindered s := by
  cases hr : writeList m t with
  | ok _ u =>
    obtain ⟨hwritten, hpend, -, -, hquiet, hf⟩ := writeList_ok h.pend hr
    rw [h.written, List.append_assoc] at hwritten
    change Progress s root code n (l ++ m) u
    rw [hf]
    exact { h with written := hwritten, pend := hpend, sinkQuiet := fun hsink => hquiet (h.sinkQuiet hsink) }
  | raise e u =>
    intro hfree
    obtain ⟨v, hv⟩ := writeList_quiet m h.pend (h.sinkQuiet hfree.sink)
    cases hr.symm.trans hv

theorem Progress.serialize :
    (serBody t).Ends (fun _ => Progress s root code n (l ++ root.ser)) fun _ => ¬ Unhindered s := by
  have hroot : t.tree.root = some root := by rw [h.tree]
  rw [serBody_some hroot]
  exact (h.write root.ser).bind fun _ _ hu => hu

theorem Progress.derive :
    (deriveBody t).Ends (fun _ => Progress s root { valid := true, cw := root.codes } n l) fun _ => ¬ Unhindered s := by
  have hroot : t.tree.root = some root := by rw [h.tree]
  rw [deriveBody_some hroot]
  exact h.setCode _

/-- R191: a symbol that has a codeword adds it. -/
theorem Progress.encode (y : Nat) (hy : Unhindered s → ∃ w, code.cw.lookup y = some w) :
    (encodeSymbol y t).Ends (fun _ => Progress s root code n (l ++ code.cw.word y)) fun _ => ¬ Unhindered s := by
  cases hw : code.cw.lookup y with
  | none =>
    rw [encodeSymbol_none (by rw [h.code, hw])]
    intro hfree
    obtain ⟨w, hw'⟩ := hy hfree
    cases hw.symm.trans hw'
  | some w =>
    rw [encodeSymbol_some (by rw [h.code, hw]), CodeTable.word_of_lookup hw]
    exact (h.write w).bind fun _ _ hu => hu

end

/-- R102: the three ways the read of a round ends: the source refuses, nothing is left to read, or it reads the next
byte. -/
theorem Progress.readByte {s t : State} {root : Tree} {code : Code} {l : Bits} {past rest : List Byte}
    (h : Progress s root code (8 * past.length) l t) (hsrc : s.host.src = past ++ rest) :
    (¬ Unhindered s ∧ ∃ u, readBits 8 t = .raise .sourceIO u) ∨
    (rest = [] ∧ ∃ u, readBits 8 t = .raise .endOfStream u ∧ Progress s root code (8 * past.length) l u) ∨
    (∃ c rest', rest = c :: rest' ∧
      ∃ u, readBits 8 t = .ok c.toNat u ∧ Progress s root code (8 * (past ++ [c]).length) l u) := by
  have hquiet (hready : s.readerReady) := Draws.quiet_draw (h.srcQuiet hready)
  have hlen : 8 * t.host.src.length = t.rd.pos + 8 * rest.length := by
    rw [h.pos, h.src, hsrc, List.length_append, Nat.mul_add]
  rcases readBits_cases 8 t with ⟨hdraw, hr⟩ | ⟨-, hshort, hr⟩ | ⟨-, hleft, hr⟩
  · exact .inl ⟨fun hfree => Bool.false_ne_true ((hquiet hfree.reader).1.symm.trans hdraw), _, hr⟩
  · refine .inr (.inl ⟨List.length_eq_zero_iff.1 (by omega), _, hr, ?_⟩)
    exact { h with srcQuiet := fun hready => (hquiet hready).2 }
  · obtain ⟨c, rest', rfl⟩ := List.exists_cons_of_length_pos (l := rest) (by omega)
    have hbyte : t.host.src[past.length]? = some c := by rw [h.src, hsrc]; simp
    rw [h.pos, val_bitsAt_byte hbyte] at hr
    refine .inr (.inr ⟨c, rest', rfl, _, hr, ?_⟩)
    have hpos : t.rd.pos + 8 = 8 * (past ++ [c]).length := by rw [h.pos, List.length_append]; rfl
    exact { h with pos := hpos, srcQuiet := fun hready => (hquiet hready).2 }

/-- R192: the loop encodes the bytes past the cursor, one a round, and ends at the end of the source. -/
theorem Progress.encodeRest {s t : State} {root : Tree} {code : Code} {l : Bits} {fuel m : Nat} {past rest : List Byte}
    (h : Progress s root code (8 * past.length) l t) (hsrc : s.host.src = past ++ rest) (hfuel : rest.length < fuel)
    (hcode : Unhindered s → ∀ c ∈ rest, ∃ w, code.cw.lookup c.toNat = some w) :
    (encodeLoop fuel m t).Ends
      (fun k u => k = m + rest.length ∧
        Progress s root code (8 * s.host.src.length) (l ++ rest.flatMap fun c => code.cw.word c.toNat) u)
      fun _ => ¬ Unhindered s := by
  induction fuel generalizing m t l past rest with
  | zero => exact absurd hfuel (Nat.not_lt_zero _)
  | succ fuel ih =>
    rw [encodeLoop]
    rcases h.readByte hsrc with ⟨hhindered, u, hr⟩ | ⟨rfl, u, hr, hu⟩ | ⟨c, rest, rfl, u, hr, hu⟩ <;> rw [hr]
    · exact hhindered
    · rw [hsrc, List.append_nil, List.flatMap_nil, List.append_nil]
      exact ⟨rfl, hu⟩
    · refine (hu.encode c.toNat fun hfree => hcode hfree c List.mem_cons_self).bind fun _ v hv => ?_
      have hlen : m + (rest.length + 1) = m + 1 + rest.length := by rw [Nat.add_assoc, Nat.add_comm 1]
      rw [List.append_cons] at hsrc
      rw [List.flatMap_cons, ← List.append_assoc, List.length_cons, hlen]
      exact ih hv hsrc (Nat.lt_of_succ_lt_succ hfuel) fun hfree d hd => hcode hfree d (List.mem_cons_of_mem c hd)

/-! ### The whole of COMPRESS (R194) -/

/-- R125: what a close that answers OK leaves in `OUT`: all that was written, padded to a whole byte. -/
theorem closeOpenWriter_padded {s t : State} (hpend : s.wr.pend.length ≤ 7) (h : closeOpenWriter s = .ok ⟨⟩ t) :
    bytesBits t.host.out = s.written ++ padding s.written := by
  rw [(closeOpenWriter_ok h).2, State.written, padding_bytesBits_append, padding, bytesBits_append, List.append_assoc,
    Nat.mod_eq_of_lt (show s.wr.pend.length < 8 by omega)]
  by_cases hnone : s.wr.pend = []
  · simp [hnone, bytesBits]
  · have hpos := List.length_pos_iff.2 hnone
    rw [if_neg hnone, bytesBits_lastByte (by omega), Nat.mod_eq_of_lt (by omega)]

/-- What COMPRESS of `s` leaves where it answers OK. -/
structure Compressed (s : State) (root : Tree) (t : State) : Prop where
  built : buildTree s.params.tieBreak t.freq.cnt = some root
  freq : s.readerReady → t.freq = tally (chunksAt s.host.src s.rd.pos (s.bitsLeft / 8))
  tree : t.tree = { root := some root, nnodes := root.nnodes }
  code : t.code = { valid := true, cw := root.codes }
  dec : AtRoot t
  rdSt : t.rd.st = s.rd.st
  pos : t.rd.pos = 8 * s.host.src.length
  wr : t.wr = { st := .closed, pend := [] }
  out : bytesBits t.host.out =
    (s.written ++ streamBits s.params.magic root root.codes s.host.src) ++
      padding (s.written ++ streamBits s.params.magic root root.codes s.host.src)

/-- R125: the close is the last piece. -/
theorem Progress.close {s t : State} {root : Tree} (h : Progress s root { valid := true, cw := root.codes }
      (8 * s.host.src.length) (streamBits s.params.magic root root.codes s.host.src) t) :
    (closeOpenWriter t).Ends (fun _ => Compressed s root) fun _ => ¬ Unhindered s := by
  cases hr : closeOpenWriter t with
  | ok _ u =>
    obtain ⟨⟨hwr, hf, -⟩, -⟩ := closeOpenWriter_ok hr
    have hout := closeOpenWriter_padded h.pend hr
    rw [h.written] at hout
    change Compressed s root u
    rw [hf]
    exact { h with wr := hwr, out := hout }
  | raise e u =>
    intro hfree
    obtain ⟨v, hv⟩ := closeOpenWriter_quiet (h.sinkQuiet hfree.sink)
    cases hr.symm.trans hv

/-- R145, R150: where every byte was counted, every byte has a codeword in the tree built. -/
theorem Counted.codeword {s u : State} {tb : TieBreak} {root : Tree} (h : Counted s u)
    (hroot : buildTree tb u.freq.cnt = some root) (hfree : Unhindered s) :
    ∀ c ∈ s.host.src, ∃ w, root.codes.lookup c.toNat = some w := by
  intro c hc
  have hlt : c.toNat < 256 := c.isLt
  have hmem := chunk_mem_seededSymbols (y := ⟨c.toNat, Nat.lt_succ_of_lt hlt⟩) (hfree.counted c hc) hlt
  rw [← h.freq hfree.reader] at hmem
  exact built_codeword hroot hmem

/-- R192: the pieces of COMPRESS in order. -/
theorem compressBody_ends {s : State} (hpend : s.wr.pend.length ≤ 7) :
    (compressBody s).Ends (fun k t => k = s.host.src.length ∧ ∃ root, Compressed s root t)
      fun _ => ¬ Unhindered s := by
  refine (countBody_counted s 1).bind fun _ u hu => ?_
  obtain ⟨root, hroot, -⟩ := buildTree_spec s.params.tieBreak u.freq.cnt
  refine (((hu.setMacroStep 2).build hpend hroot).setMacroStep 3).rewind.bind fun _ u h => ?_
  have hmagic : u.params.magic = s.params.magic := by rw [h.params]
  refine ((h.setMacroStep 4).write _).bind fun _ u h => ?_
  refine (h.setMacroStep 5).serialize.bind fun _ u h => ?_
  refine (h.setMacroStep 6).derive.bind fun _ u h => ?_
  have hfuel : s.host.src.length < u.host.src.length + 1 := by rw [h.src]; exact Nat.lt_succ_self _
  refine ((h.setMacroStep 7).encodeRest (past := []) rfl hfuel fun hfree => hu.codeword hroot hfree).bind ?_
  rintro k u ⟨rfl, h⟩
  have hsentinel := built_codeword hroot (sentinel_mem_seededSymbols _)
  refine ((h.setMacroStep 8).encode _ fun _ => hsentinel).bind fun _ u h => ?_
  rw [hmagic, List.nil_append, List.append_assoc] at h
  exact (h.setMacroStep 9).close.bind fun _ u hu => ⟨Nat.zero_add _, root, hu⟩

/-! ### The command -/

theorem execCompress_of_open {s : State} (hrd : s.rd.st = .opened) (hwr : s.wr.st = .opened) :
    execCompress s = finish ((compressBody s).bind fun k t => .ok (.value (resultWord k)) t) := by
  rw [execCompress, preCheck_of_open (fun _ => hrd) fun _ => hwr, Res.bind_ok]

/-- R194: an OK COMPRESS leaves what `Compressed` says. -/
theorem exec_compress_ok {s t : State} (hpend : s.wr.pend.length ≤ 7) (h : exec .compress s = .next t)
    (hok : t.rstat = 0) : t.rval = resultWord s.host.src.length ∧ ∃ root, Compressed s root t := by
  have hends := compressBody_ends hpend
  rcases execCompress_cases h with ⟨e, rfl, -⟩ | ⟨e, u, -, rfl⟩ | ⟨k, u, hbody, rfl⟩
  · exact absurd hok e.rstat_ne_zero
  · exact absurd hok e.rstat_ne_zero
  · rw [hbody] at hends
    obtain ⟨rfl, root, hu⟩ := hends
    exact ⟨rfl, root, { hu with }⟩

/-- R192: COMPRESS of an unhindered state answers OK. -/
theorem exec_compress_complete {s : State} (h : Unhindered s) (hready : s.writerReady) :
    ∃ t, exec .compress s = .next t ∧ answeredOk t (resultWord s.host.src.length) ∧ ∃ root, Compressed s root t := by
  have hends := compressBody_ends hready.2.1
  cases hbody : compressBody s with
  | ok k u =>
    have hnext : exec .compress s = .next (u.answer (.value (resultWord k))) := by
      change execCompress s = _
      rw [execCompress_of_open h.reader.1 hready.1, hbody]
      rfl
    obtain ⟨hrval, hcompressed⟩ := exec_compress_ok hready.2.1 hnext (Answer.value_rstat _)
    exact ⟨_, hnext, ⟨Answer.value_rstat _, hrval, rfl⟩, hcompressed⟩
  | raise e u =>
    rw [hbody] at hends
    exact absurd h hends

/-- R140: from the start of a source the chunks are its bytes. -/
theorem chunksLeft_start {s : State} (hpos : s.rd.pos = 0) :
    s.bitsLeft / 8 = s.host.src.length ∧
      chunksAt s.host.src s.rd.pos (s.bitsLeft / 8) = s.host.src.map BitVec.toNat := by
  have hcount : s.bitsLeft / 8 = s.host.src.length := by
    rw [State.bitsLeft, hpos, Nat.sub_zero, Nat.mul_div_cancel_left _ (by decide)]
  rw [hcount, hpos, chunksAt_start]
  exact ⟨rfl, rfl⟩

theorem Unhindered.of_start {s : State} (hrd : s.readerReady) (hwr : s.writerReady) (hpos : s.rd.pos = 0)
    (hroom : s.host.src.length ≤ maxChunks s.params) : Unhindered s := by
  obtain ⟨hcount, hchunks⟩ := chunksLeft_start hpos
  refine ⟨hrd, hwr.2.2, by rwa [hcount], fun c hc => ?_⟩
  rw [hchunks]
  exact List.mem_map_of_mem hc

/-- Settles O45: an OK COMPRESS leaves what `Compressed` says, and from the start of the source nothing hinders one. -/
theorem compressWritesStream : Obligations.CompressWritesStream := by
  refine ⟨fun s t hpend h hok => ?_, fun s hrd hwr hpos hroom => ?_⟩
  · obtain ⟨hrval, root, hc⟩ := exec_compress_ok (by rw [hpend]; exact Nat.zero_le 7) h hok
    refine ⟨root, by rw [hc.tree], by rw [hc.code], hrval, ?_⟩
    have hout := hc.out
    rw [State.written, hpend, List.append_nil, padding_bytesBits_append] at hout
    rw [hc.code]
    exact hout
  · obtain ⟨t, hexec, hok, root, hc⟩ := exec_compress_complete (.of_start hrd hwr hpos hroom) hwr
    have hfreq := hc.freq hrd
    rw [(chunksLeft_start hpos).2] at hfreq
    exact ⟨t, root, hexec, hok, hfreq, hc.built, hc.tree, hc.code, hc.dec, hc.wr, hc.rdSt.trans hrd.1, hc.pos⟩

/-- Settles O48: from the start of the source the tree is that of its own counts, and the tree and the source fix the
bits sent, which fix the bytes sent. -/
theorem compressIsDeterministic : Obligations.CompressIsDeterministic := by
  intro s₁ s₂ t₁ t₂ hrd₁ hwr₁ hrd₂ hwr₂ hnone₁ hnone₂ hpos₁ hpos₂ hsrc hmagic htie h₁ h₂ hok₁ hok₂
  obtain ⟨-, root₁, hc₁⟩ := exec_compress_ok hwr₁.2.1 h₁ hok₁
  obtain ⟨-, root₂, hc₂⟩ := exec_compress_ok hwr₂.2.1 h₂ hok₂
  have hfreq : t₁.freq = t₂.freq := by
    rw [hc₁.freq hrd₁, hc₂.freq hrd₂, (chunksLeft_start hpos₁).2, (chunksLeft_start hpos₂).2, hsrc]
  have hroot : root₁ = root₂ := by
    have hbuilt₂ := hc₂.built
    rw [← hfreq, ← htie, hc₁.built] at hbuilt₂
    exact Option.some.inj hbuilt₂
  refine bytesBits_injective ?_
  rw [hc₁.out, hc₂.out, hnone₁, hnone₂, hsrc, hmagic, hroot]

end Sys2Proof.Machine
end

section
/-! PROOF. O46 and O47, the two least sources (R196, R197): the tree of each has two leaves, and no tie arises between
them, so it is the same under every `TIE_BREAK`. -/

namespace Sys2Proof.Machine

/-- The bits of the magic constant's bytes are its own (R52). -/
theorem bytesBits_magicBytes (m : Word) : bytesBits (magicBytes m) = bitsOf 32 m.toNat := by
  have hbyte (i : Nat) : bitsOf 8 (m.extractLsb' i 8).toNat = bitsOf 8 (m.toNat >>> i) := by
    rw [BitVec.extractLsb'_toNat, bitsOf_mod]
  have hsplit : bitsOf 32 m.toNat = bitsOf 8 (m.toNat >>> 24) ++ (bitsOf 8 (m.toNat >>> 16) ++
      (bitsOf 8 (m.toNat >>> 8) ++ bitsOf 8 (m.toNat >>> 0))) := by
    rw [bitsOf_add 8 24, bitsOf_add 8 16, bitsOf_add 8 8]; rfl
  rw [hsplit]
  simp only [magicBytes, bytesBits_cons, hbyte]
  rw [bytesBits, List.flatMap_nil, List.append_nil]

/-- R152: the codes of a tree of two leaves with different symbols. -/
theorem codes_of_twoLeaves {y z : Symbol} (hne : y ≠ z) (u v w : Nat) :
    (Tree.internal u (.leaf y v) (.leaf z w)).codes.lookup y.val = some [false] ∧
      (Tree.internal u (.leaf y v) (.leaf z w)).codes.lookup z.val = some [true] := by
  rw [Tree.codes_lookup, Tree.codes_lookup, Tree.lastPath_internal, Tree.lastPath_internal]
  simp [Tree.lastPath_leaf, hne, hne.symm]

/-- The tree of the empty input (R144). -/
def emptyInputTree : Tree := .internal 1 (.leaf 0 0) (.leaf sentinel 1)

/-- Settles O46: nothing is counted, so the tree is that of R144, and the bits past the magic constant are three bytes
once padded. -/
theorem emptyInputStream : Obligations.EmptyInputStream := by
  intro s hrd hwr hpend hsrc
  have hleft : s.bitsLeft / 8 = 0 := by rw [State.bitsLeft, hsrc, List.length_nil, Nat.mul_zero, Nat.zero_sub]
  have hfree : Unhindered s := ⟨hrd, hwr.2.2, by rw [hleft]; exact Nat.zero_le _, by rw [hsrc]; nofun⟩
  obtain ⟨t, hexec, hok, root, hc⟩ := exec_compress_complete hfree hwr
  have hzero : ∀ c ∈ t.freq.cnt, c = 0 := by
    rw [hc.freq hrd, hleft, show chunksAt s.host.src s.rd.pos 0 = [] from rfl, tally_nil]
    exact fun c hmem => List.eq_of_mem_replicate hmem
  cases (hc.built.symm.trans (buildTree_empty s.params.tieBreak hzero) : some root = some emptyInputTree)
  have hcode : emptyInputTree.codes.lookup sentinel.val = some [true] := (codes_of_twoLeaves (by decide) 1 0 1).2
  refine ⟨t, hexec, by rwa [hsrc] at hok, by rw [hc.tree]; rfl, by rw [hc.code]; exact hcode, bytesBits_injective ?_⟩
  have hbits : streamBits s.params.magic emptyInputTree emptyInputTree.codes [] =
      bytesBits (magicBytes s.params.magic) ++ (emptyInputTree.ser ++ [true]) := by
    rw [streamBits, streamBody, CodeTable.word_of_lookup hcode, bytesBits_magicBytes, List.append_assoc]
    rfl
  have hlast : bytesBits [0x40, 0x18, 0x04] =
      emptyInputTree.ser ++ [true] ++ padding (emptyInputTree.ser ++ [true]) := by decide
  rw [hc.out, State.written, hpend, List.append_nil, hsrc, hbits, padding_bytesBits_append, padding_bytesBits_append,
    bytesBits_append, bytesBits_append, hlast]
  simp only [List.append_assoc]

/-- R196: one chunk value counted more than once outweighs the sentinel, so the sentinel leaves Q first whatever the
policy. -/
theorem buildTree_single (tb : TieBreak) {cnt : List Nat} {y : Symbol} {n : Nat} (h : seedLeaves 0 cnt = [.leaf y n])
    (hn : 1 < n) : buildTree tb cnt = some (.internal (1 + n) (.leaf sentinel 1) (.leaf y n)) := by
  rw [buildTree, seedQueue_eq_seeds, seeds, if_neg (by simp [h]), h]
  have hfirst (hist : List QueueOp) :
      chooseMin tb hist ⟨0, .leaf y n⟩ [⟨1, .leaf sentinel 1⟩] = ⟨1, .leaf sentinel 1⟩ := chooseMin_pair tb hist hn
  simp [Queue.insert, Queue.empty, mergeLoop, Queue.removeMin, hfirst, chooseMin_single, Tree.weight]

/-- R143: of the counts of 1000 bytes of 0x41 one leaf is seeded. -/
theorem seedLeaves_tally_replicate : seedLeaves 0 (tally (List.replicate 1000 0x41)).cnt = [.leaf 0x41 1000] := by
  simp only [tally, List.count_replicate]
  decide

/-- Settles O47: the tree is that of one counted value, whose code gives each byte the same one bit. -/
theorem minimumAlphabet : Obligations.MinimumAlphabet := by
  intro s hrd hwr hpos hroom hsrc
  have hlen : s.host.src.length = 1000 := by rw [hsrc, List.length_replicate]
  obtain ⟨t, hexec, hok, root, hc⟩ := exec_compress_complete (.of_start hrd hwr hpos (by rwa [hlen])) hwr
  have hseeds : seedLeaves 0 t.freq.cnt = [.leaf 0x41 1000] := by
    rw [hc.freq hrd, (chunksLeft_start hpos).2, hsrc, List.map_replicate]
    exact seedLeaves_tally_replicate
  cases hc.built.symm.trans (buildTree_single s.params.tieBreak hseeds (by decide))
  obtain ⟨hsentinel, hchunk⟩ := codes_of_twoLeaves (y := sentinel) (z := 0x41) (by decide) 1001 1 1000
  replace hsentinel : t.code.cw.lookup sentinel.val = some [false] := by rw [hc.code]; exact hsentinel
  replace hchunk : t.code.cw.lookup (BitVec.toNat (0x41 : Byte)) = some [true] := by rw [hc.code]; exact hchunk
  rw [hlen] at hok
  refine ⟨t, hexec, hok, by rw [hc.tree], hsentinel, hchunk, ?_⟩
  rw [streamBody, CodeTable.word_of_lookup hsentinel, hsrc, List.flatMap_replicate, CodeTable.word_of_lookup hchunk,
    List.flatten_replicate_singleton]

end Sys2Proof.Machine
end

section
/-! PROOF. O49 to O51, DEC.STEP (R210 to R212). Past its refusals a step is one bit read and the node it leads to
(`decBody_descends`); `decBody_ok` and `decBody_raise` say what every step leaves, however the host answers. -/

namespace Sys2Proof.Machine

theorem Res.onRaise_eq_ok {α : Type} {r : Res α} {f : State → State} {a : α} {t : State} :
    r.onRaise f = .ok a t ↔ r = .ok a t := by
  cases r <;> simp

theorem Res.onRaise_eq_raise {α : Type} {r : Res α} {f : State → State} {e : Err} {t : State} :
    r.onRaise f = .raise e t ↔ ∃ u, r = .raise e u ∧ f u = t := by
  cases r <;> simp

/-! ### The node reached -/

section
variable {s t : State} {node : Tree} {y : Symbol}

theorem reachNode_internal (s : State) (h : node.isLeaf = false) : reachNode node s = .ok .continued s := by
  cases node with
  | leaf y w => cases h
  | internal w l r => rfl

theorem reachNode_sentinel (w : Nat) (s : State) :
    reachNode (.leaf sentinel w) s = .ok .done (s.setDec { s.dec with st := .done }) := by
  rw [reachNode, if_pos rfl]

theorem reachNode_data (w : Nat) (s : State) (hy : y ≠ sentinel) : reachNode (.leaf y w) s = emitSymbol y s := if_neg hy

/-- A ready writer takes the symbol, and the decoder is at the root again. -/
theorem emitSymbol_complete (y : Symbol) (h : s.writerReady) :
    ∃ t, emitSymbol y s = .ok (.emitted y) (t.setDec { t.dec with path := [] }) ∧ writeFrame s t ∧
      t.written = s.written ++ bitsOf 8 y.val ∧ t.writerReady := by
  obtain ⟨t, ht, hkept⟩ := writeList_of_writerReady (bitsOf 8 y.val) h
  have hframe := writeList_writeFrame s (bitsOf 8 y.val)
  rw [ht] at hframe
  refine ⟨t, ?_, hframe, hkept⟩
  rw [emitSymbol, writerTakes, preCheck_of_open (by simp) fun _ => h.1, Res.bind_ok, writeBits, ht]
  rfl

/-- R210: a writer that is not OPEN takes no symbol. -/
theorem emitSymbol_refused (y : Symbol) (h : s.wr.st ≠ .opened) :
    emitSymbol y s = .raise (if s.wr.st = .closed then .unitClosed else .stickyWr) s.failDec := by
  have hcheck : writerTakes s = .raise (if s.wr.st = .closed then .unitClosed else .stickyWr) s := by
    cases hst : s.wr.st with
    | opened => exact absurd hst h
    | closed => exact preCheck_closed (.inr ⟨List.mem_cons_self, hst⟩)
    | failed => exact preCheck_wr_failed List.mem_cons_self hst (by simp)
  rw [emitSymbol, hcheck]
  rfl

theorem emitSymbol_ok {ev : DecEvent} (h : emitSymbol y s = .ok ev t) :
    ev = .emitted y ∧ ∃ u, writeFrame s u ∧ t = u.setDec { u.dec with path := [] } := by
  obtain ⟨_, u, hu, ht⟩ := Res.bind_eq_ok.1 h
  obtain ⟨_, v, hv, hwrite⟩ := Res.bind_eq_ok.1 (Res.onRaise_eq_ok.1 hu)
  obtain ⟨rfl, -⟩ := preCheck_eq_ok.1 hv
  cases ht
  have hframe := writeList_writeFrame v (bitsOf 8 y.val)
  rw [← writeBits, hwrite] at hframe
  exact ⟨rfl, u, hframe, rfl⟩

/-- What a step past its read leaves where it answers OK. -/
theorem reachNode_ok {ev : DecEvent} (h : reachNode node s = .ok ev t) :
    t.rd = s.rd ∧ t.host.src = s.host.src ∧ t.dec.st = if ev = .done then .done else s.dec.st := by
  cases node with
  | internal w l r => cases h; exact ⟨rfl, rfl, rfl⟩
  | leaf y w =>
    by_cases hy : y = sentinel
    · subst hy
      rw [reachNode_sentinel] at h
      cases h
      exact ⟨rfl, rfl, rfl⟩
    · rw [reachNode_data w s hy] at h
      obtain ⟨rfl, u, hframe, rfl⟩ := emitSymbol_ok h
      rw [hframe]
      exact ⟨rfl, rfl, rfl⟩

theorem reachNode_raise {e : Err} (h : reachNode node s = .raise e t) : t.dec.st = .failed := by
  cases node with
  | internal w l r => cases h
  | leaf y w =>
    by_cases hy : y = sentinel
    · subst hy
      rw [reachNode_sentinel] at h
      cases h
    · rw [reachNode_data w s hy] at h
      rcases Res.bind_eq_raise.1 h with h | ⟨_, u, -, h⟩
      · obtain ⟨u, -, rfl⟩ := Res.onRaise_eq_raise.1 h
        rfl
      · cases h

end

/-! ### One step -/

/-- The state in which a step acts on the node it has reached: one bit consumed, and the path longer by it (R210). -/
def State.descent (s : State) : State :=
  (((sourceDraw s).2.refilled 1).advanced 1).descended (bitAt s.host.src s.rd.pos)

theorem State.descent_dec (s : State) :
    s.descent.dec = { st := s.dec.st, path := s.dec.path ++ [bitAt s.host.src s.rd.pos] } := rfl

theorem State.descent_pos (s : State) : s.descent.rd.pos = s.rd.pos + 1 := rfl

theorem State.descent_writerKept (s : State) : writerKept s s.descent := ⟨rfl, rfl, rfl, rfl⟩

section
variable {s t : State} {root : Tree}

theorem bitRead_ne_zero (src : List Byte) (p : Nat) : (val (bitsAt src p 1) != 0) = bitAt src p := by
  cases h : bitAt src p <;> simp [bitsAt, val, h]

section
variable (hroot : s.tree.root = some root) (hst : s.dec.st = .ready) (hleaf : root.isLeaf = false)
include hroot hst hleaf

/-- R210: where the source answers and has a bit left, a step goes to the node the bit leads to. -/
theorem decBody_descends {node : Tree} (hdraw : s.host.srcErr.draw.1 = false)
    (hleft : s.rd.pos + 1 ≤ 8 * s.host.src.length)
    (hnode : root.subtree (s.dec.path ++ [bitAt s.host.src s.rd.pos]) = some node) :
    decBody s = (reachNode node s.descent).bind fun ev t => .ok (some ev) t := by
  rcases readBits_cases 1 s with ⟨h, -⟩ | ⟨-, h, -⟩ | ⟨-, -, hread⟩
  · rw [hdraw] at h; cases h
  · omega
  · rw [decBody_ready hroot hst hleaf, hread, Res.onRaise_ok, Res.bind_ok, bitRead_ne_zero]
    have hreached : root.subtree (((((sourceDraw s).2.refilled 1).advanced 1).descended
        (bitAt s.host.src s.rd.pos)).dec.path) = some node := hnode
    rw [hreached]
    rfl

/-- R210: a step with no bit left consumes nothing and leaves the decoder FAILED. -/
theorem decBody_endOfStream (hdraw : s.host.srcErr.draw.1 = false) (hleft : 8 * s.host.src.length < s.rd.pos + 1) :
    decBody s = .raise .endOfStream ((sourceDraw s).2.refilled 1).failDec := by
  rcases readBits_cases 1 s with ⟨h, -⟩ | ⟨-, -, hread⟩ | ⟨-, h, -⟩
  · rw [hdraw] at h; cases h
  · rw [decBody_ready hroot hst hleaf, hread]; rfl
  · omega

end

/-- R210, R219: a step that answers was READY and consumed one bit. -/
theorem decBody_ok {ev : Option DecEvent} (h : decBody s = .ok ev t) :
    s.dec.st = .ready ∧ s.rd.pos + 1 ≤ 8 * s.host.src.length ∧ t.rd.pos = s.rd.pos + 1 ∧
      t.host.src = s.host.src ∧ t.dec.st = if ev = some .done then .done else .ready := by
  cases hroot : s.tree.root with
  | none => rw [decBody_none hroot] at h; cases h
  | some root =>
    by_cases hst : s.dec.st = .ready
    · cases hleaf : root.isLeaf with
      | true => rw [decBody_leafRoot hroot hst hleaf] at h; cases h
      | false =>
        rw [decBody_ready hroot hst hleaf] at h
        obtain ⟨b, u, hread, h⟩ := Res.bind_eq_ok.1 h
        obtain ⟨-, hpos, -, hleft, -, hframe⟩ := readBits_ok (Res.onRaise_eq_ok.1 hread)
        have hsrc : u.host.src = s.host.src := by rw [hframe]; rfl
        have hdec : u.dec.st = .ready := by rw [hframe]; exact hst
        split at h
        · cases h
          exact ⟨hst, hleft, hpos, hsrc, hdec⟩
        · obtain ⟨e, v, hnode, hv⟩ := Res.bind_eq_ok.1 h
          cases hv
          obtain ⟨hrd, hkept, hdec'⟩ := reachNode_ok hnode
          refine ⟨hst, hleft, by rw [hrd]; exact hpos, hkept.trans hsrc, ?_⟩
          rw [hdec']
          simp [hdec]
    · rw [decBody_notReady hroot hst] at h; cases h

/-- R212: a step that raises has changed nothing or leaves the decoder FAILED. -/
theorem decBody_raise {e : Err} (h : decBody s = .raise e t) :
    (t = s ∧ (s.tree.root = none ∨ s.dec.st ≠ .ready)) ∨ (s.dec.st = .ready ∧ t.dec.st = .failed) := by
  cases hroot : s.tree.root with
  | none => rw [decBody_none hroot] at h; cases h; exact .inl ⟨rfl, .inl rfl⟩
  | some root =>
    by_cases hst : s.dec.st = .ready
    · refine .inr ⟨hst, ?_⟩
      cases hleaf : root.isLeaf with
      | true => rw [decBody_leafRoot hroot hst hleaf] at h; cases h; rfl
      | false =>
        rw [decBody_ready hroot hst hleaf] at h
        rcases Res.bind_eq_raise.1 h with h | ⟨b, u, -, h⟩
        · obtain ⟨u, -, rfl⟩ := Res.onRaise_eq_raise.1 h
          rfl
        · split at h
          · cases h
          · rcases Res.bind_eq_raise.1 h with h | ⟨ev, v, -, h⟩
            · exact reachNode_raise h
            · cases h
    · rw [decBody_notReady hroot hst] at h; cases h; exact .inl ⟨rfl, .inr hst⟩

/-! ### DEC.STEP -/

theorem rstat_continued : (Answer.ofEvent .continued).rstat = 0 := by decide

theorem rstat_done : (Answer.ofEvent .done).rstat = 0x01002000 := by decide

theorem exec_decStep_of_open (hst : s.rd.st = .opened) : exec .decStep s =
    finishDefined ((decBody s).bind fun ev t => .ok (ev.map Answer.ofEvent) t) := by
  change execDecStep s = _
  rw [execDecStep, preCheck_of_open (fun _ => hst) (by simp), Res.bind_ok]

theorem exec_decStep_of_ok {ev : DecEvent} (hst : s.rd.st = .opened) (h : decBody s = .ok (some ev) t) :
    exec .decStep s = .next (t.answer (.ofEvent ev)) := by
  rw [exec_decStep_of_open hst, h]; rfl

theorem exec_decStep_of_raise {e : Err} (hst : s.rd.st = .opened) (h : decBody s = .raise e t) :
    exec .decStep s = .next (t.answerError e) := by
  rw [exec_decStep_of_open hst, h]; rfl

/-- The ways DEC.STEP ends: refused by PreCheck, or as its step does. -/
theorem exec_decStep_cases (h : exec .decStep s = .next t) :
    (s.rd.st ≠ .opened ∧ ∃ e, t = s.answerError e) ∨
    (∃ e u, decBody s = .raise e u ∧ t = u.answerError e) ∨
    (∃ ev u, decBody s = .ok (some ev) u ∧ t = u.answer (.ofEvent ev)) := by
  by_cases hst : s.rd.st = .opened
  · rw [exec_decStep_of_open hst] at h
    refine .inr ?_
    rcases finishDefined_next h with ⟨a, u, hr, rfl⟩ | ⟨e, u, hr, rfl⟩
    · obtain ⟨ev, v, hbody, hv⟩ := Res.bind_eq_ok.1 hr
      rw [Res.ok.injEq, Option.map_eq_some_iff] at hv
      obtain ⟨⟨ev, rfl, rfl⟩, rfl⟩ := hv
      exact .inr ⟨ev, v, hbody, rfl⟩
    · rcases Res.bind_eq_raise.1 hr with hbody | ⟨ev, v, -, hv⟩
      · exact .inl ⟨e, u, hbody, rfl⟩
      · cases hv
  · refine .inl ⟨hst, ?_⟩
    change execDecStep s = _ at h
    cases hcheck : preCheck [.rd] s with
    | ok _ u => exact absurd ((preCheck_eq_ok.1 hcheck).2.1 List.mem_cons_self) hst
    | raise e u =>
      obtain ⟨rfl, -⟩ := preCheck_eq_raise hcheck
      rw [execDecStep, finishDefined_of_preCheck hcheck] at h
      cases h
      exact ⟨e, rfl⟩

end

/-- Settles O49: the node below the bit read is internal, the sentinel's leaf, or a data leaf. -/
theorem decStepDescends : Obligations.DecStepDescends := by
  intro s root l r w hst hdraw hleft hdec hroot hpath b child
  have hleaf : root.isLeaf = false := by
    cases root with
    | internal _ _ _ => rfl
    | leaf y v => cases hp : s.dec.path <;> rw [hp] at hpath <;> cases hpath
  have hnode : root.subtree (s.dec.path ++ [b]) = some child := by
    rw [Tree.subtree_append, hpath]
    cases hb : b <;> simp [child, hb, Tree.subtree]
  have hbody := decBody_descends hroot hdec hleaf hdraw hleft hnode
  have hready : s.descent.dec = { st := .ready, path := s.dec.path ++ [b] } := by rw [s.descent_dec, hdec]
  refine ⟨fun hchild => ?_, fun w' hchild => ?_, fun y w' hchild hy hwr => ?_⟩
  · rw [reachNode_internal _ hchild] at hbody
    exact ⟨_, exec_decStep_of_ok hst hbody, ⟨rstat_continued, rfl, rfl⟩, s.descent_pos, hready,
      s.descent_writerKept⟩
  · rw [hchild, reachNode_sentinel, hready] at hbody
    exact ⟨_, exec_decStep_of_ok hst hbody, rstat_done, rfl, s.descent_pos, rfl, s.descent_writerKept⟩
  · obtain ⟨t, hemit, hframe, hwritten, hwr', hpend, -⟩ := emitSymbol_complete (s := s.descent) y hwr
    rw [hchild, reachNode_data _ _ hy, hemit] at hbody
    have hpos : t.rd.pos = s.rd.pos + 1 := by rw [hframe]; exact s.descent_pos
    have hdec' : t.dec = { st := .ready, path := s.dec.path ++ [b] } := by rw [hframe]; exact hready
    rw [hdec'] at hbody
    exact ⟨_, exec_decStep_of_ok hst hbody, rfl, rfl, hpos, rfl, hwritten, hwr', hpend⟩

/-- Settles O50: each error is raised at its place in the step, and the decoder is FAILED there. -/
theorem decStepErrors : Obligations.DecStepErrors := by
  intro s root hst hdec hroot
  refine ⟨fun hleaf => ?_, fun hleaf hdraw hleft => ?_, fun y w hdraw hleft hleaf hnode hy hwr => ?_⟩
  · exact ⟨_, exec_decStep_of_raise hst (decBody_leafRoot hroot hdec hleaf), rfl, rfl, rfl, rfl⟩
  · exact ⟨_, exec_decStep_of_raise hst (decBody_endOfStream hroot hdec hleaf hdraw hleft), rfl, rfl, rfl, rfl⟩
  · have hbody := decBody_descends hroot hdec hleaf hdraw hleft hnode
    rw [reachNode_data w _ hy, emitSymbol_refused y (s := s.descent) hwr] at hbody
    refine ⟨_, exec_decStep_of_raise hst hbody, ?_, rfl, s.descent_pos, ?_, s.descent_writerKept⟩
    · rw [State.answerError_rstat, apply_ite Err.rstat]
      rfl
    · rw [State.answerError_dec, State.failDec_dec, s.descent_dec]

/-! ### Who writes the decoder (R212) -/

theorem exec_codeDerive_dec {s t : State} (h : exec .codeDerive s = .next t) : t.dec = s.dec := by
  cases hroot : s.tree.root with
  | none => cases (exec_codeDerive_noTree hroot).symm.trans h; rfl
  | some root => cases (exec_codeDerive hroot).symm.trans h; rfl

theorem exec_dec_kept {i : Instr} {s t : State} (h : exec i s = .next t) (hbuild : i ≠ .treeBuild)
    (hdeser : i ≠ .treeDeser) (hstep : i ≠ .decStep) (hcompress : i ≠ .compress) (hdecompress : i ≠ .decompress) :
    t.dec = s.dec := by
  have hreader (hi : (∃ n, i = .rdRead n) ∨ i = .rdReset ∨ i = .rdClose) : t.dec = s.dec :=
    have ⟨_, ⟨_, _, _, hdec⟩, _⟩ := readerCommandsFrame i s t hi h
    hdec
  have hwriter (hi : (∃ n value, i = .wrWrite n value) ∨ i = .wrClose ∨ i = .treeSer ∨ ∃ y, i = .encSym y) :
      t.dec = s.dec :=
    have ⟨_, ⟨_, _, _, hdec⟩, _⟩ := writerCommandsFrame i s t hi h
    hdec
  cases i with
  | rdRead n => exact hreader (.inl ⟨n, rfl⟩)
  | rdReset => exact hreader (.inr (.inl rfl))
  | rdClose => exact hreader (.inr (.inr rfl))
  | wrWrite n value => exact hwriter (.inl ⟨n, value, rfl⟩)
  | wrClose => exact hwriter (.inr (.inl rfl))
  | treeSer => exact hwriter (.inr (.inr (.inl rfl)))
  | encSym y => exact hwriter (.inr (.inr (.inr ⟨y, rfl⟩)))
  | freqCount =>
    obtain ⟨_, _, hcount, _⟩ := sourceDrainersFrame _ s t (.inl rfl) h
    exact (hcount rfl).2.2
  | codeDerive => exact exec_codeDerive_dec h
  | treeBuild => exact absurd rfl hbuild
  | treeDeser => exact absurd rfl hdeser
  | decStep => exact absurd rfl hstep
  | compress => exact absurd rfl hcompress
  | decompress => exact absurd rfl hdecompress

/-- R172: TREE.DESER past its PreCheck leaves the decoder at the root, or IDLE. -/
theorem exec_treeDeser_dec {s t : State} (hst : s.rd.st = .opened) (h : exec .treeDeser s = .next t) :
    t.dec = if t.rstat = 0 then { st := .ready, path := [] } else { st := .idle, path := [] } := by
  change execTreeDeser s = .next t at h
  rw [execTreeDeser_of_open hst] at h
  rcases deserBody_cases s with ⟨x, u, -, hbody⟩ | ⟨e, u, -, hbody⟩ <;> rw [hbody] at h <;> cases h
  · exact (if_pos (Answer.value_rstat _)).symm
  · exact (if_neg e.rstat_ne_zero).symm

theorem Err.rstatStatus_ne_zero (e : Err) : rstatStatus e.rstat ≠ 0 := by cases e <;> decide

theorem Answer.rstatStatus_eq_zero (a : Answer) : rstatStatus a.rstat = 0 := rstatStatus_rstatWord ..

theorem DecEvent.rstatEvent_eq_two (ev : DecEvent) : rstatEvent (Answer.ofEvent ev).rstat = 2 ↔ ev = .done := by
  rw [Answer.rstat, rstatEvent_rstatWord]
  cases ev <;> simp [Answer.ofEvent, DecEvent.code]

/-- Settles O51: DEC.STEP is its step, of which `decBody_ok` and `decBody_raise` say what they leave. -/
theorem decoderTransitions : Obligations.DecoderTransitions := by
  intro i s t h
  refine ⟨fun hb hd hs hc hx => exec_dec_kept h hb hd hs hc hx, ?_, ?_, ?_, ?_, ?_⟩ <;> rintro rfl
  · obtain ⟨root, hroot, -⟩ := buildTree_spec s.params.tieBreak s.freq.cnt
    cases (exec_treeBuild hroot).symm.trans h
    rfl
  · exact fun hst => exec_treeDeser_dec hst h
  all_goals rcases exec_decStep_cases h with ⟨hclosed, e, rfl⟩ | ⟨e, u, hbody, rfl⟩ | ⟨ev, u, hbody, rfl⟩
  · exact fun _ => rfl
  · intro hdec
    rcases decBody_raise hbody with ⟨rfl, -⟩ | ⟨hready, -⟩
    · rfl
    · exact absurd hready hdec
  · exact fun hdec => absurd (decBody_ok hbody).1 hdec
  · exact fun hok => absurd hok e.rstatStatus_ne_zero
  · exact fun hok => absurd hok e.rstatStatus_ne_zero
  · intro _
    obtain ⟨-, -, hpos, -, hdec⟩ := decBody_ok hbody
    refine ⟨hpos, ?_⟩
    rw [State.answer_dec, hdec, State.answer_rstat]
    simp only [DecEvent.rstatEvent_eq_two, Option.some_inj]
  · exact fun _ _ hst => absurd hst hclosed
  · intro hdec hroot _ _
    rcases decBody_raise hbody with ⟨-, hnone | hidle⟩ | ⟨-, hfailed⟩
    · exact absurd hnone hroot
    · exact absurd hdec hidle
    · exact hfailed
  · exact fun _ _ _ hfailed => absurd (Answer.rstatStatus_eq_zero _) hfailed

end Sys2Proof.Machine
end

section
/-! PROOF. O53, the magic check (R213, R214), the first step of DECOMPRESS: it is one ReadBits, and what it raises is
what DECOMPRESS answers. -/

namespace Sys2Proof.Machine

section
variable {s t : State}

theorem exec_decompress_of_open (hrd : s.rd.st = .opened) (hwr : s.wr.st = .opened) : exec .decompress s =
    finishDefined ((decompressBody s).bind fun e t => .ok (e.map fun k => .value (resultWord k)) t) := by
  change execDecompress s = _
  rw [execDecompress, preCheck_of_open (fun _ => hrd) fun _ => hwr, Res.bind_ok]

theorem exec_decompress_of_raise {e : Err} (hrd : s.rd.st = .opened) (hwr : s.wr.st = .opened)
    (h : decompressBody s = .raise e t) : exec .decompress s = .next (t.answerError e) := by
  rw [exec_decompress_of_open hrd hwr, h]; rfl

/-- R215: what the first step raises ends DECOMPRESS. -/
theorem decompressBody_of_checkMagic {e : Err} (h : checkMagic (s.setMacroStep 1) = .raise e t) :
    decompressBody s = .raise e t := by
  rw [decompressBody, h, Res.bind_raise]

theorem checkMagic_sourceIO (hdraw : s.host.srcErr.draw.1 = true) :
    checkMagic s = .raise .sourceIO (sourceDraw s).2.failRd := by
  rcases readBits_cases 32 s with ⟨-, hread⟩ | ⟨h, -⟩ | ⟨h, -⟩
  · rw [checkMagic, hread]
  all_goals rw [hdraw] at h; cases h

/-- R214: a source that ends within the magic constant has none. -/
theorem checkMagic_noMagic (hdraw : s.host.srcErr.draw.1 = false) (hleft : 8 * s.host.src.length < s.rd.pos + 32) :
    checkMagic s = .raise .noMagic ((sourceDraw s).2.refilled 32) := by
  rcases readBits_cases 32 s with ⟨h, -⟩ | ⟨-, -, hread⟩ | ⟨-, h, -⟩
  · rw [hdraw] at h; cases h
  · rw [checkMagic, hread]
  · omega

theorem checkMagic_badMagic (hdraw : s.host.srcErr.draw.1 = false) (hleft : s.rd.pos + 32 ≤ 8 * s.host.src.length)
    (hbits : bitsAt s.host.src s.rd.pos 32 ≠ bitsOf 32 s.params.magic.toNat) :
    checkMagic s = .raise .badMagic (((sourceDraw s).2.refilled 32).advanced 32) := by
  rcases readBits_cases 32 s with ⟨h, -⟩ | ⟨-, h, -⟩ | ⟨-, -, hread⟩
  · rw [hdraw] at h; cases h
  · omega
  · rw [checkMagic, hread]
    refine if_neg fun hval => hbits ?_
    have hlist := bitsOf_val (bitsAt s.host.src s.rd.pos 32)
    rw [bitsAt_length, hval] at hlist
    exact hlist.symm

/-- R213: the magic constant is read past. -/
theorem checkMagic_nextBits (h : s.readerReady) (hnext : s.nextBits (bitsOf 32 s.params.magic.toNat)) :
    ∃ t, checkMagic s = .ok ⟨⟩ t ∧ ReadPast s (bitsOf 32 s.params.magic.toNat) t := by
  obtain ⟨t, hread, ht⟩ := readBits_nextBits h hnext
  rw [bitsOf_length, val_bitsOf, Nat.mod_eq_of_lt s.params.magic.isLt] at hread
  have hmagic : t.params.magic = s.params.magic := by rw [ht.frame]; rfl
  refine ⟨t, ?_, ht⟩
  rw [checkMagic, hread]
  exact if_pos (by rw [hmagic])

end

/-- Settles O53: each clause is one way the read of the magic constant ends. -/
theorem magicCheck : Obligations.MagicCheck := by
  intro s hrd hwr
  have hraise {e : Err} {t : State} (h : checkMagic (s.setMacroStep 1) = .raise e t) :
      exec .decompress s = .next (t.answerError e) :=
    exec_decompress_of_raise hrd hwr (decompressBody_of_checkMagic h)
  refine ⟨fun hdraw => ?_, fun hdraw hleft => ?_, fun hdraw hleft hbits => ?_⟩
  · exact ⟨_, hraise (checkMagic_sourceIO hdraw), rfl, rfl, rfl, ⟨rfl, rfl, rfl, rfl⟩, rfl, rfl, rfl, rfl⟩
  · exact ⟨_, hraise (checkMagic_noMagic hdraw hleft), rfl, rfl, rfl, ⟨rfl, rfl, rfl, rfl⟩, rfl, rfl, rfl, rfl⟩
  · exact ⟨_, hraise (checkMagic_badMagic hdraw hleft hbits), rfl, rfl, rfl, ⟨rfl, rfl, rfl, rfl⟩, rfl, rfl, rfl, rfl⟩

end Sys2Proof.Machine
end

section
/-! PROOF. O54, DECOMPRESS of a stream of the format (R87, R213, R216). `Decoding s root a p sent t` follows step 4 from
the state `s` past the header: the bits read, the decoder's path and the bytes sent. A run of steps is said by what it
leaves of the loop, `∀ fuel e, decodeLoop (fuel + n) e t = …`, where `n` is the number of bits it reads. -/

namespace Sys2Proof.Machine

/-! ### Paths in the loaded tree -/

theorem Tree.subtree_weightless (u : Tree) (p : Bits) : u.weightless.subtree p = (u.subtree p).map weightless := by
  induction u generalizing p with
  | leaf y w => cases p <;> rfl
  | internal w l r ihl ihr =>
    match p with
    | [] => rfl
    | false :: p => exact ihl p
    | true :: p => exact ihr p

theorem Tree.isLeaf_weightless (u : Tree) : u.weightless.isLeaf = u.isLeaf := by cases u <;> rfl

/-- The path to a leaf leads to one in the tree TREE.DESER loads (R176). -/
theorem Tree.leaf_weightless {u : Tree} {p : Bits} {y : Symbol} {w : Nat} (h : u.subtree p = some (.leaf y w)) :
    u.weightless.subtree p = some (.leaf y 0) := by
  rw [subtree_weightless, h]; rfl

theorem codesFor_weightless {u : Tree} {cw : CodeTable} {chunks : List Byte} (h : codesFor u cw chunks) :
    codesFor u.weightless cw chunks := by
  obtain ⟨hchunks, w, hsentinel⟩ := h
  refine ⟨fun c hc => ?_, 0, Tree.leaf_weightless hsentinel⟩
  obtain ⟨y, w, hy, hleaf⟩ := hchunks c hc
  exact ⟨y, 0, hy, Tree.leaf_weightless hleaf⟩

/-- The nodes above a node, and an internal node itself, are internal. -/
theorem Tree.internal_of_prefix {t node : Tree} {p q : Bits} (h : t.subtree (p ++ q) = some node)
    (hq : node.isLeaf = false ∨ q ≠ []) : ∃ n, t.subtree p = some n ∧ n.isLeaf = false := by
  rw [subtree_append, Option.bind_eq_some_iff] at h
  obtain ⟨n, hn, hnode⟩ := h
  refine ⟨n, hn, ?_⟩
  cases n with
  | internal w l r => rfl
  | leaf y w =>
    cases q with
    | nil => cases hnode; exact hq.resolve_right (by simp)
    | cons b q => cases hnode

/-! ### One round of the loop -/

section
variable {s t : State} (fuel e : Nat)

theorem decodeLoop_continued (h : decBody s = .ok (some .continued) t) :
    decodeLoop (fuel + 1) e s = decodeLoop fuel e t := by
  rw [decodeLoop, h]; rfl

theorem decodeLoop_emitted {y : Symbol} (h : decBody s = .ok (some (.emitted y)) t) :
    decodeLoop (fuel + 1) e s = decodeLoop fuel (e + 1) t := by
  rw [decodeLoop, h]; rfl

theorem decodeLoop_done (h : decBody s = .ok (some .done) t) : decodeLoop (fuel + 1) e s = .ok (some e) t := by
  rw [decodeLoop, h]; rfl

theorem decodeLoop_raise {err : Err} (h : decBody s = .raise err t) : decodeLoop (fuel + 1) e s = .raise err t := by
  rw [decodeLoop, h]; rfl

end

/-! ### Decoding -/

/-- Whole bytes written leave nothing pending. -/
theorem State.out_of_written {t : State} {bs : List Byte} (h : t.written = bytesBits bs)
    (hpend : t.wr.pend.length ≤ 7) : t.host.out = bs ∧ t.wr.pend = [] := by
  have hlen := congrArg List.length h
  rw [State.written, List.length_append, bytesBits_length, bytesBits_length] at hlen
  have hnone : t.wr.pend = [] := List.length_eq_zero_iff.1 (by omega)
  rw [State.written, hnone, List.append_nil] at h
  exact ⟨bytesBits_injective h, hnone⟩

/-- `t` is `s` with the bits `a` decoded: the decoder is at `p` in `root`, and `OUT` holds `sent`. -/
structure Decoding (s : State) (root : Tree) (a p : Bits) (sent : List Byte) (t : State) : Prop where
  root_eq : t.tree.root = some root
  dec : t.dec = { st := .ready, path := p }
  reader : t.readerReady
  src : t.host.src = s.host.src
  pos : t.rd.pos = s.rd.pos + a.length
  writer : t.writerReady
  written : t.written = bytesBits sent

section
variable {s t : State} {root node : Tree} {a p q : Bits} {sent : List Byte}

theorem Decoding.out (h : Decoding s root a p sent t) : t.host.out = sent ∧ t.wr.pend = [] :=
  State.out_of_written h.written h.writer.2.1

variable (hleaf : root.isLeaf = false)
include hleaf

/-- R210: a step reads the next bit and acts on the node it leads to. -/
theorem Decoding.bit {b : Bool} (h : Decoding s root a p sent t) (hnext : s.nextBits (a ++ [b]))
    (hnode : root.subtree (p ++ [b]) = some node) :
    ∃ v, Decoding s root (a ++ [b]) (p ++ [b]) sent v ∧
      decBody t = (reachNode node v).bind fun ev v => .ok (some ev) v := by
  obtain ⟨hleft, hbits⟩ := State.nextBits_after hnext h.pos h.src
  have hb : bitAt t.host.src t.rd.pos = b := List.head_eq_of_cons_eq hbits
  have hdec : t.descent.dec = { st := .ready, path := p ++ [b] } := by
    rw [t.descent_dec, h.dec, hb]
  have hpos : t.descent.rd.pos = s.rd.pos + (a ++ [b]).length := by
    rw [t.descent_pos, h.pos, List.length_append, Nat.add_assoc]; rfl
  obtain ⟨hst, hquiet⟩ := h.reader
  refine ⟨t.descent, ?_, decBody_descends h.root_eq (by rw [h.dec]) hleaf (Draws.quiet_draw hquiet).1 hleft ?_⟩
  · exact { h with dec := hdec, reader := ⟨hst, (Draws.quiet_draw hquiet).2⟩, pos := hpos }
  · rw [hb, h.dec]
    exact hnode

/-- Bits that lead to an internal node send nothing. -/
theorem Decoding.along (h : Decoding s root a p sent t) (hnext : s.nextBits (a ++ q))
    (hnode : root.subtree (p ++ q) = some node) (hint : node.isLeaf = false) :
    ∃ v, Decoding s root (a ++ q) (p ++ q) sent v ∧
      ∀ fuel e, decodeLoop (fuel + q.length) e t = decodeLoop fuel e v := by
  induction q generalizing a p t with
  | nil => exact ⟨t, by rwa [List.append_nil, List.append_nil], fun _ _ => rfl⟩
  | cons b q ih =>
    rw [List.append_cons] at hnext hnode ⊢
    rw [List.append_cons p]
    obtain ⟨n, hn, hn_int⟩ := Tree.internal_of_prefix hnode (.inl hint)
    obtain ⟨u, hu, hbody⟩ := h.bit hleaf (State.nextBits_left hnext) hn
    rw [reachNode_internal u hn_int] at hbody
    obtain ⟨v, hv, hloop⟩ := ih hu hnext hnode
    exact ⟨v, hv, fun fuel e => (decodeLoop_continued _ e hbody).trans (hloop fuel e)⟩

/-- A codeword leads to its leaf with its last bit. -/
theorem Decoding.codeword {w : Bits} (h : Decoding s root a [] sent t) (hnext : s.nextBits (a ++ w))
    {y : Symbol} {x : Nat} (hnode : root.subtree w = some (.leaf y x)) :
    ∃ u v, Decoding s root (a ++ w) w sent v ∧
      decBody u = ((reachNode (.leaf y x) v).bind fun ev v => .ok (some ev) v) ∧
      ∀ fuel e, decodeLoop (fuel + w.length) e t = decodeLoop (fuel + 1) e u := by
  rcases List.eq_nil_or_concat' w with rfl | ⟨q, b, rfl⟩
  · rw [Tree.subtree_nil, Option.some_inj] at hnode
    rw [hnode] at hleaf
    cases hleaf
  · obtain ⟨n, hn, hint⟩ := Tree.internal_of_prefix hnode (.inr (by simp))
    rw [← List.append_assoc] at hnext ⊢
    obtain ⟨u, hu, hloop⟩ := h.along hleaf (State.nextBits_left hnext) hn hint
    obtain ⟨v, hv, hbody⟩ := hu.bit hleaf hnext hnode
    refine ⟨u, v, hv, hbody, fun fuel e => ?_⟩
    rw [← hloop, List.length_append, ← Nat.add_assoc, Nat.add_right_comm]
    rfl

/-- R210: the codeword of a chunk sends the chunk. -/
theorem Decoding.chunk {w : Bits} {c : Byte} (h : Decoding s root a [] sent t) (hnext : s.nextBits (a ++ w))
    {y : Symbol} {x : Nat} (hnode : root.subtree w = some (.leaf y x)) (hy : y.val = c.toNat) :
    ∃ v, Decoding s root (a ++ w) [] (sent ++ [c]) v ∧
      ∀ fuel e, decodeLoop (fuel + w.length) e t = decodeLoop fuel (e + 1) v := by
  have hdata : y ≠ sentinel := by
    rintro rfl
    have hc := c.isLt
    rw [← hy] at hc
    exact absurd hc (by decide)
  obtain ⟨u, v, hv, hbody, hloop⟩ := h.codeword hleaf hnext hnode
  obtain ⟨z, hemit, hframe, hwritten, hready⟩ := emitSymbol_complete y hv.writer
  rw [reachNode_data x v hdata, hemit] at hbody
  have hsent : z.written = bytesBits (sent ++ [c]) := by
    rw [hwritten, hv.written, hy, bytesBits_append, bytesBits_cons]
    exact congrArg _ (List.append_nil _).symm
  refine ⟨z.setDec { z.dec with path := [] }, ?_, fun fuel e => (hloop fuel e).trans (decodeLoop_emitted fuel e hbody)⟩
  exact {
    root_eq := by rw [hframe]; exact hv.root_eq
    dec := by rw [hframe, State.setDec_dec]; rw [State.setHost_dec, State.setWr_dec, hv.dec]
    reader := by rw [hframe]; exact hv.reader
    src := by rw [hframe]; exact hv.src
    pos := by rw [hframe]; exact hv.pos
    writer := hready
    written := hsent }

/-- R210, R213: the sentinel's codeword ends the loop. -/
theorem Decoding.sentinelWord {w : Bits} (h : Decoding s root a [] sent t) (hnext : s.nextBits (a ++ w))
    {x : Nat} (hnode : root.subtree w = some (.leaf sentinel x)) :
    ∃ v, Decoding s root (a ++ w) w sent v ∧
      ∀ fuel e, decodeLoop (fuel + w.length) e t = .ok (some e) (v.setDec { st := .done, path := w }) := by
  obtain ⟨u, v, hv, hbody, hloop⟩ := h.codeword hleaf hnext hnode
  rw [reachNode_sentinel, hv.dec] at hbody
  exact ⟨v, hv, fun fuel e => (hloop fuel e).trans (decodeLoop_done fuel e hbody)⟩

/-- The codewords of chunks send the chunks. -/
theorem Decoding.chunks {cw : CodeTable} {chunks : List Byte} (h : Decoding s root a [] sent t)
    (hcodes : ∀ c ∈ chunks, ∃ y w, y.val = c.toNat ∧ root.subtree (cw.word c.toNat) = some (.leaf y w))
    (hnext : s.nextBits (a ++ chunks.flatMap fun c => cw.word c.toNat)) :
    ∃ v, Decoding s root (a ++ chunks.flatMap fun c => cw.word c.toNat) [] (sent ++ chunks) v ∧
      ∀ fuel e, decodeLoop (fuel + (chunks.flatMap fun c => cw.word c.toNat).length) e t =
        decodeLoop fuel (e + chunks.length) v := by
  induction chunks generalizing a sent t with
  | nil => exact ⟨t, by simpa using h, fun _ _ => rfl⟩
  | cons c chunks ih =>
    obtain ⟨⟨y, w, hy, hnode⟩, hcodes⟩ := List.forall_mem_cons.1 hcodes
    rw [List.flatMap_cons, ← List.append_assoc] at hnext ⊢
    rw [List.append_cons sent]
    obtain ⟨u, hu, hfirst⟩ := h.chunk hleaf (State.nextBits_left hnext) hnode hy
    obtain ⟨v, hv, hrest⟩ := ih hu hcodes hnext
    refine ⟨v, hv, fun fuel e => ?_⟩
    rw [List.length_append, Nat.add_comm (cw.word c.toNat).length, ← Nat.add_assoc, hfirst, hrest, List.length_cons,
      Nat.add_assoc, Nat.add_comm 1]

/-- R213, R216: a body sends its chunks, and the loop ends at its last bit. -/
theorem Decoding.body {cw : CodeTable} {chunks : List Byte} (h : Decoding s root a [] sent t)
    (hcodes : codesFor root cw chunks) (hnext : s.nextBits (a ++ streamBody cw chunks)) :
    ∃ v, Decoding s root (a ++ streamBody cw chunks) (cw.word sentinel.val) (sent ++ chunks) v ∧
      ∀ fuel, decodeLoop (fuel + (streamBody cw chunks).length) 0 t =
        .ok (some chunks.length) (v.setDec { st := .done, path := cw.word sentinel.val }) := by
  obtain ⟨hchunks, w, hsentinel⟩ := hcodes
  rw [streamBody, ← List.append_assoc] at hnext ⊢
  obtain ⟨u, hu, hloop⟩ := h.chunks hleaf hchunks (State.nextBits_left hnext)
  obtain ⟨v, hv, hend⟩ := hu.sentinelWord hleaf hnext hsentinel
  refine ⟨v, hv, fun fuel => ?_⟩
  rw [List.length_append, Nat.add_comm (List.length _) (cw.word sentinel.val).length, ← Nat.add_assoc, hloop, hend,
    Nat.zero_add]

end

/-! ### DECOMPRESS -/

theorem ReadPast.src {s t : State} {a : Bits} (h : ReadPast s a t) : t.host.src = s.host.src := by rw [h.frame]; rfl

/-- R213: past the magic constant and the tree DECOMPRESS decodes from the root. -/
theorem decompressBody_header {s : State} {u : Tree} (hrd : s.readerReady) (hwr : s.writerReady)
    (hpend : s.wr.pend = []) (hcap : u.nnodes ≤ s.params.nodeCap)
    (hnext : s.nextBits (bitsOf 32 s.params.magic.toNat ++ u.ser)) :
    ∃ v, decompressBody s = (decodeLoop (8 * v.host.src.length + 1) 0 v).bind closeDecoded ∧
      Decoding v u.weightless [] [] s.host.out v ∧ v.host.src = s.host.src ∧
      v.rd.pos = s.rd.pos + (bitsOf 32 s.params.magic.toNat ++ u.ser).length ∧
      v.tree = { root := some u.weightless, nnodes := u.nnodes } ∧ v.code = Code.none := by
  obtain ⟨t, hmagic, ht⟩ := checkMagic_nextBits (s := s.setMacroStep 1) hrd (State.nextBits_left hnext)
  obtain ⟨v, hdeser, hv⟩ := deserBody_ser (s := t.setMacroStep 2) ht.ready (ht.nextBits hnext)
    (hcap.trans_eq ht.nodeCap.symm)
  have hbody : decompressBody s = (decodeLoop (8 * v.host.src.length + 1) 0
      (((v.loadTree (some u.weightless) u.nnodes).setMacroStep 3).setMacroStep 4)).bind closeDecoded := by
    rw [decompressBody, hmagic, Res.bind_ok, hdeser, Res.bind_ok]
    rfl
  obtain ⟨⟨hwr₁, hout₁, hsink₁, -⟩, -⟩ := OutsideLoaderKept.of_readFrame ht.frame
  obtain ⟨⟨hwr₂, hout₂, hsink₂, -⟩, -⟩ := OutsideLoaderKept.of_readFrame hv.frame
  have hwr' : v.wr = s.wr := hwr₂.trans hwr₁
  have hout' : v.host.out = s.host.out := hout₂.trans hout₁
  have hsink' : v.host.sinkErr = s.host.sinkErr := hsink₂.trans hsink₁
  have hready : v.writerReady := by rwa [State.writerReady, hwr', hsink']
  have hwritten : v.written = bytesBits s.host.out := by
    rw [State.written, hout', hwr', hpend, List.append_nil]
  have hpos : v.rd.pos = s.rd.pos + (bitsOf 32 s.params.magic.toNat ++ u.ser).length := by
    rw [List.length_append, ← Nat.add_assoc, hv.pos]
    exact congrArg (· + u.ser.length) ht.pos
  exact ⟨_, hbody, ⟨rfl, rfl, hv.ready, rfl, rfl, hready, hwritten⟩, hv.src.trans ht.src, hpos, rfl, rfl⟩

/-- R125: with whole bytes written the close after the loop sends nothing more. -/
theorem closeDecoded_complete {s : State} (k : Nat) (hwr : s.writerReady) (hpend : s.wr.pend = []) :
    ∃ t, closeDecoded (some k) s = .ok (some k) t ∧ writeFrame (s.setMacroStep 5) t ∧ t.host.out = s.host.out ∧
      t.wr = { st := .closed, pend := [] } := by
  obtain ⟨t, hclose⟩ := closeOpenWriter_quiet (s := s.setMacroStep 5) hwr.2.2
  obtain ⟨⟨hwr', hframe, -⟩, hout⟩ := closeOpenWriter_ok hclose
  rw [State.setMacroStep_wr, hpend, if_pos rfl, List.append_nil] at hout
  exact ⟨t, by rw [closeDecoded, hclose]; rfl, hframe, hout, hwr'⟩

theorem exec_decompress_of_ok {s t : State} {k : Nat} (hrd : s.rd.st = .opened) (hwr : s.wr.st = .opened)
    (h : decompressBody s = .ok (some k) t) : exec .decompress s = .next (t.answer (.value (resultWord k))) := by
  rw [exec_decompress_of_open hrd hwr, h]; rfl

/-- Settles O54: the header is read as a tree, the body as its chunks, and the writer is closed on whole bytes. -/
theorem decompressDecodesStream : Obligations.DecompressDecodesStream := by
  intro s u cw chunks hrd hwr hpend hleaf hcap hcodes hnext
  obtain ⟨v, hbody, hv, hsrc, hpos, htree, hcode⟩ :=
    decompressBody_header hrd hwr hpend hcap (State.nextBits_left hnext)
  have hnext' := State.nextBits_after hnext hpos hsrc
  obtain ⟨x, hx, hloop⟩ := hv.body (u.isLeaf_weightless.trans hleaf) (codesFor_weightless hcodes) hnext'
  obtain ⟨fuel, hfuel⟩ : ∃ fuel, 8 * v.host.src.length + 1 = fuel + (streamBody cw chunks).length := by
    obtain ⟨hleft, -⟩ := hnext'
    exact ⟨_, (Nat.sub_add_cancel (by omega)).symm⟩
  replace hloop := hloop fuel
  have htables := decodeLoop_tablesKept (s := v) ⟨rfl, rfl, rfl⟩ (8 * v.host.src.length + 1) 0
  rw [hfuel, hloop] at htables
  obtain ⟨-, htree', hcode'⟩ := htables
  obtain ⟨t, hclose, hframe, hout, hwr'⟩ :=
    closeDecoded_complete (s := x.setDec { st := .done, path := cw.word sentinel.val }) chunks.length hx.writer hx.out.2
  rw [hfuel, hloop, Res.bind_ok, hclose] at hbody
  have hexec := exec_decompress_of_ok hrd.1 hwr.1 hbody
  refine ⟨_, hexec, ⟨Answer.value_rstat _, rfl, rfl⟩, hout.trans hx.out.1, hwr', ?_, ?_, ?_, ?_, ?_,
    execDecompress_freqKept hexec⟩
  · rw [State.answer_rd, hframe]
    exact hx.reader.1
  · rw [State.answer_rd, hframe, streamBits, List.length_append, ← Nat.add_assoc, ← hpos]
    exact hx.pos
  · rw [State.answer_tree, hframe, ← htree]
    exact htree'
  · rw [State.answer_code, hframe, ← hcode]
    exact hcode'
  · rw [State.answer_dec, hframe]
    rfl

end Sys2Proof.Machine
end

section
/-! PROOF. O55, the round trip (R217): what an OK COMPRESS wrote is a stream of the format, since every byte of its
source had a codeword, and the tree it built fits every tree store (`exec_compress_decodable`). -/

namespace Sys2Proof.Machine

/-! ### The tree of an OK COMPRESS -/

/-- A tree whose codes send the bytes of `src` to any decoder. -/
structure Decodable (root : Tree) (src : List Byte) : Prop where
  internal : root.isLeaf = false
  nnodes : root.nnodes ≤ 513
  codes : codesFor root root.codes src

theorem codesFor_codes {root : Tree} {src : List Byte} (hsrc : ∀ c ∈ src, ∃ w, root.codes.lookup c.toNat = some w)
    (hsentinel : ∃ w, root.codes.lookup sentinel.val = some w) : codesFor root root.codes src := by
  have hword {y : Nat} (hy : ∃ w, root.codes.lookup y = some w) :
      ∃ z x, z.val = y ∧ root.subtree (root.codes.word y) = some (.leaf z x) := by
    obtain ⟨w, hw⟩ := hy
    rw [CodeTable.word_of_lookup hw]
    exact Tree.subtree_of_codes hw
  refine ⟨fun c hc => hword (hsrc c hc), ?_⟩
  obtain ⟨z, x, hz, hleaf⟩ := hword hsentinel
  rw [Fin.ext hz] at hleaf
  exact ⟨x, hleaf⟩

/-- R143, R149: a tree built of 256 counters is decodable for every source whose bytes it has codes for. -/
theorem decodable_of_built {tb : TieBreak} {cnt : List Nat} {root : Tree} {src : List Byte}
    (hroot : buildTree tb cnt = some root) (hcnt : cnt.length = 256)
    (hsrc : ∀ c ∈ src, ∃ w, root.codes.lookup c.toNat = some w) : Decodable root src where
  internal := by
    obtain ⟨root', hroot', hsymbols, -⟩ := buildTree_spec tb cnt
    cases hroot.symm.trans hroot'
    obtain ⟨htwo, -⟩ := leaves_bounds_of_seeded hsymbols hcnt.le
    cases root with
    | leaf y w => exact absurd htwo (by simp [Tree.leaves])
    | internal w l r => rfl
  nnodes := by
    obtain ⟨root', hroot', hcap⟩ := buildTree_some tb hcnt
    cases hroot.symm.trans hroot'
    exact hcap
  codes := codesFor_codes hsrc (built_codeword hroot (sentinel_mem_seededSymbols cnt))

theorem Res.Ends.and_ok {α : Type} {r : Res α} {P P' : α → State → Prop} {Q : State → Prop} (h : r.Ends P Q)
    (h' : ∀ a t, r = .ok a t → P' a t) : r.Ends (fun a t => P a t ∧ P' a t) Q := by
  cases r with
  | ok a t => exact ⟨h, h' a t rfl⟩
  | raise e t => exact h

/-- R140: counting leaves as many counters as it found. -/
theorem countLoop_width {fuel : Nat} {s t : State} (h : countLoop fuel s = .ok ⟨⟩ t) :
    t.freq.cnt.length = s.freq.cnt.length := by
  induction fuel generalizing s with
  | zero => cases h; rfl
  | succ fuel ih =>
    unfold countLoop at h
    split at h
    · next v u hread =>
      obtain ⟨-, -, -, -, -, hframe⟩ := readBits_ok hread
      split at h
      · cases h
      · rw [ih h, hframe]
        exact List.length_modify ..
    · next u hread =>
      cases h
      obtain ⟨-, hframe, -⟩ := readBits_raise hread
      rw [hframe]
      rfl
    · cases h

theorem countBody_width {s t : State} (h : countBody s = .ok ⟨⟩ t) : t.freq.cnt.length = 256 :=
  (countLoop_width h).trans List.length_replicate

/-- R191, R192: an encoding loop that ends OK had a codeword for every byte it read. -/
theorem encodeLoop_coded {s t u : State} {root : Tree} {code : Code} {l : Bits} {fuel m k : Nat} {past rest : List Byte}
    (h : Progress s root code (8 * past.length) l t) (hsrc : s.host.src = past ++ rest) (hfuel : rest.length < fuel)
    (hloop : encodeLoop fuel m t = .ok k u) : ∀ c ∈ rest, ∃ w, code.cw.lookup c.toNat = some w := by
  induction fuel generalizing m t l past rest with
  | zero => exact absurd hfuel (Nat.not_lt_zero _)
  | succ fuel ih =>
    rw [encodeLoop] at hloop
    rcases h.readByte hsrc with ⟨-, v, hread⟩ | ⟨rfl, -⟩ | ⟨c, rest, rfl, v, hread, hv⟩
    · rw [hread] at hloop; cases hloop
    · nofun
    · rw [hread] at hloop
      obtain ⟨_, x, hencode, hloop⟩ := Res.bind_eq_ok.1 hloop
      cases hw : code.cw.lookup c.toNat with
      | none =>
        rw [encodeSymbol_none (by rw [hv.code, hw])] at hencode
        cases hencode
      | some w =>
        have hx := hv.encode c.toNat fun _ => ⟨w, hw⟩
        rw [hencode] at hx
        rw [List.append_cons] at hsrc
        exact List.forall_mem_cons.2 ⟨⟨w, hw⟩, ih hx hsrc (Nat.lt_of_succ_lt_succ hfuel) hloop⟩

/-- R192: the pieces of COMPRESS in order, with what its tree can decode. -/
theorem compressBody_decodable {s : State} (hpend : s.wr.pend.length ≤ 7) :
    (compressBody s).Ends (fun _ t => ∃ root, Compressed s root t ∧ Decodable root s.host.src)
      fun _ => ¬ Unhindered s := by
  refine ((countBody_counted s 1).and_ok fun _ _ => countBody_width).bind fun _ u ⟨hu, hwidth⟩ => ?_
  obtain ⟨root, hroot, -⟩ := buildTree_spec s.params.tieBreak u.freq.cnt
  refine (((hu.setMacroStep 2).build hpend hroot).setMacroStep 3).rewind.bind fun _ u h => ?_
  have hmagic : u.params.magic = s.params.magic := by rw [h.params]
  refine ((h.setMacroStep 4).write _).bind fun _ u h => ?_
  refine (h.setMacroStep 5).serialize.bind fun _ u h => ?_
  refine (h.setMacroStep 6).derive.bind fun _ u h => ?_
  have hfuel : s.host.src.length < u.host.src.length + 1 := by rw [h.src]; exact Nat.lt_succ_self _
  have hloop := (h.setMacroStep 7).encodeRest (past := []) rfl hfuel (m := 0) fun hfree => hu.codeword hroot hfree
  refine (hloop.and_ok fun _ _ => encodeLoop_coded (h.setMacroStep 7) (past := []) rfl hfuel).bind ?_
  rintro k u ⟨⟨rfl, h⟩, hcoded⟩
  have hsentinel := built_codeword hroot (sentinel_mem_seededSymbols _)
  refine ((h.setMacroStep 8).encode _ fun _ => hsentinel).bind fun _ u h => ?_
  rw [hmagic, List.nil_append, List.append_assoc] at h
  exact (h.setMacroStep 9).close.bind fun _ u hu => ⟨root, hu, decodable_of_built hroot hwidth hcoded⟩

/-- R194: what an OK COMPRESS leaves, with a tree that decodes it. -/
theorem exec_compress_decodable {s t : State} (hpend : s.wr.pend.length ≤ 7) (h : exec .compress s = .next t)
    (hok : t.rstat = 0) : ∃ root, Compressed s root t ∧ Decodable root s.host.src := by
  have hends := compressBody_decodable hpend
  rcases execCompress_cases h with ⟨e, rfl, -⟩ | ⟨e, u, -, rfl⟩ | ⟨k, u, hbody, rfl⟩
  · exact absurd hok e.rstat_ne_zero
  · exact absurd hok e.rstat_ne_zero
  · rw [hbody] at hends
    obtain ⟨root, hu, hdec⟩ := hends
    exact ⟨root, { hu with }, hdec⟩

theorem Compressed.out_fresh {s t : State} {root : Tree} (h : Compressed s root t) (hfresh : s.written = []) :
    bytesBits t.host.out = streamBits s.params.magic root root.codes s.host.src ++
      padding (streamBits s.params.magic root root.codes s.host.src) := by
  have hout := h.out
  rwa [hfresh, List.nil_append] at hout

/-! ### The round trip -/

/-- A fresh writer: nothing sent and nothing pending. -/
theorem State.fresh_of_written {s : State} (h : s.written = []) : s.host.out = [] ∧ s.wr.pend = [] := by
  obtain ⟨hout, hpend⟩ := List.append_eq_nil_iff.1 h
  exact ⟨bytesBits_injective hout, hpend⟩

/-- Settles O55: the source of the second machine begins with a stream of the format, which DECOMPRESS decodes (O54). -/
theorem roundTrip : Obligations.RoundTrip := by
  intro s hrd hwr hfresh hpos hparams hroom
  obtain ⟨t, hexec, ⟨hok, -⟩, -⟩ := exec_compress_complete (.of_start hrd hwr hpos hroom) hwr
  obtain ⟨root, hc, hdec⟩ := exec_compress_decodable hwr.2.1 hexec hok
  refine ⟨t, hexec, hok, fun r hrrd hrwr hrfresh hrpos hrparams hmagic hsrc => ?_⟩
  obtain ⟨hnone, hpend⟩ := State.fresh_of_written hrfresh
  have hnext : r.nextBits (streamBits r.params.magic root root.codes s.host.src) := by
    refine State.nextBits_of_prefix hrpos ?_
    rw [hsrc, hc.out_fresh hfresh, hmagic]
    exact List.prefix_append _ _
  obtain ⟨v, hv, ⟨hvok, hrval, -⟩, hout, -⟩ := decompressDecodesStream r root root.codes s.host.src hrrd hrwr hpend
    hdec.internal (hdec.nnodes.trans hrparams.2) hdec.codes hnext
  rw [hnone, List.nil_append] at hout
  exact ⟨v, hv, hvok, hout, hrval⟩

end Sys2Proof.Machine
end

section
/-! PROOF. O56, truncated streams (R218). `Cut l a` says that `l` ends before `a` does, and `restBits` that `l` is all
that is left to read. A cut of the magic constant, of the tree or of the body each ends its step of DECOMPRESS by name. -/

namespace Sys2Proof.Machine

/-! ### Cut bit lists -/

/-- `l` is a beginning of `a`, and not all of it. -/
def Cut (l a : Bits) : Prop := l <+: a ∧ l.length < a.length

section
variable {l a b : Bits}

/-- A cut of two parts ends within the first or within the second. -/
theorem Cut.append_cases (h : Cut l (a ++ b)) : Cut l a ∨ ∃ m, l = a ++ m ∧ Cut m b := by
  obtain ⟨hprefix, hlen⟩ := h
  by_cases hl : l.length < a.length
  · exact .inl ⟨List.prefix_of_prefix_length_le hprefix (List.prefix_append a b) hl.le, hl⟩
  · obtain ⟨m, rfl⟩ := List.prefix_of_prefix_length_le (List.prefix_append a b) hprefix (Nat.le_of_not_lt hl)
    rw [List.length_append, List.length_append] at hlen
    exact .inr ⟨m, rfl, (List.prefix_append_right_inj a).1 hprefix, Nat.lt_of_add_lt_add_left hlen⟩

theorem Cut.singleton {x : Bool} (h : Cut l [x]) : l = [] := List.length_eq_zero_iff.1 (Nat.lt_one_iff.1 h.2)

/-- R10: a cut of the path to a node leads to a node above it. -/
theorem Cut.internal {root node : Tree} (h : Cut l a) (hnode : root.subtree a = some node) :
    ∃ n, root.subtree l = some n ∧ n.isLeaf = false := by
  obtain ⟨⟨q, rfl⟩, hlen⟩ := h
  refine Tree.internal_of_prefix hnode (.inr ?_)
  rintro rfl
  rw [List.append_nil] at hlen
  exact Nat.lt_irrefl _ hlen

end

/-! ### The end of the source -/

/-- The bits left in the source from the cursor on are `l`. -/
def State.restBits (s : State) (l : Bits) : Prop := s.nextBits l ∧ 8 * s.host.src.length = s.rd.pos + l.length

section
variable {s t : State} {a l : Bits}

theorem State.restBits_after (h : s.restBits (a ++ l)) (hpos : t.rd.pos = s.rd.pos + a.length)
    (hsrc : t.host.src = s.host.src) : t.restBits l := by
  obtain ⟨hnext, hlen⟩ := h
  rw [List.length_append] at hlen
  exact ⟨State.nextBits_after hnext hpos hsrc, by rw [hsrc, hpos]; omega⟩

theorem ReadPast.restBits (h : ReadPast s a t) (hrest : s.restBits (a ++ l)) : t.restBits l :=
  State.restBits_after hrest h.pos h.src

/-- R102: a read of more bits than are left. -/
theorem readBits_short {n : Nat} (h : s.readerReady) (hrest : s.restBits l) (hn : l.length < n) :
    ∃ t, readBits n s = .raise .endOfStream t := by
  obtain ⟨hdraw, -⟩ := Draws.quiet_draw h.2
  obtain ⟨-, hlen⟩ := hrest
  rcases readBits_cases n s with ⟨h, -⟩ | ⟨-, -, hread⟩ | ⟨-, h, -⟩
  · rw [hdraw] at h; cases h
  · exact ⟨_, hread⟩
  · omega

end

/-! ### A cut tree -/

/-- R172: `Des()` with no bit left for the marker of a node. -/
theorem desTree_noMarker {s : State} {fuel k : Nat} (hready : s.readerReady) (hk : k ≠ s.params.nodeCap)
    (hfuel : fuel ≠ 0) (hrest : s.restBits []) : ∃ t, desTree fuel k s = .raise .endOfStream t := by
  obtain ⟨fuel, rfl⟩ := Nat.exists_eq_succ_of_ne_zero hfuel
  obtain ⟨t, hread⟩ := readBits_short hready hrest (n := 1) Nat.zero_lt_one
  exact ⟨t, by rw [desTree, if_neg hk, hread, Res.bind_raise]⟩

/-- R172, R218: `Des()` over a cut of a tree's bits. -/
theorem desTree_cut {s : State} {fuel k : Nat} {l : Bits} (u : Tree) (hready : s.readerReady)
    (hcap : k + u.nnodes ≤ s.params.nodeCap) (hfuel : s.params.nodeCap < fuel + k) (hrest : s.restBits l)
    (hcut : Cut l u.ser) : ∃ t, desTree fuel k s = .raise .endOfStream t := by
  induction u generalizing fuel k s l with
  | leaf y w =>
    rw [Tree.nnodes] at hcap
    rcases Cut.append_cases (a := [true]) hcut with hnone | ⟨l, rfl, hsymbol⟩
    · rw [hnone.singleton] at hrest
      exact desTree_noMarker hready (by omega) (by omega) hrest
    · obtain ⟨t, hmarker, ht⟩ := readBits_nextBits hready (State.nextBits_left hrest.1)
      obtain ⟨v, hread⟩ := readBits_short ht.ready (ht.restBits hrest) (n := 9) (by simpa using hsymbol.2)
      obtain ⟨fuel, rfl⟩ : ∃ fuel', fuel = fuel' + 1 := Nat.exists_eq_succ_of_ne_zero (by omega)
      change readBits 1 s = .ok 1 t at hmarker
      refine ⟨v, ?_⟩
      rw [desTree, if_neg (by omega), hmarker, Res.bind_ok, if_neg Nat.one_ne_zero, hread, Res.bind_raise]
  | internal w left right ihl ihr =>
    rw [Tree.nnodes] at hcap
    rcases Cut.append_cases (a := [false]) hcut with hnone | ⟨l, rfl, hchildren⟩
    · rw [hnone.singleton] at hrest
      exact desTree_noMarker hready (by omega) (by omega) hrest
    · obtain ⟨t, ht, hdes⟩ := desTree_internalBit (k := k) (fuel := fuel) hready (by omega) (by omega)
        (State.nextBits_left hrest.1)
      have hrest := ht.restBits hrest
      have hcapt := ht.nodeCap
      rcases hchildren.append_cases with hfirst | ⟨l, rfl, hsecond⟩
      · obtain ⟨v, hleft⟩ := ihl ht.ready (k := k + 1) (fuel := fuel - 1) (by omega) (by omega) hrest hfirst
        exact ⟨v, by rw [hdes, hleft, Res.bind_raise]⟩
      · obtain ⟨v, hleft, hv⟩ := desTree_ser ht.ready left (k := k + 1) (fuel := fuel - 1) (by omega) (by omega)
          (State.nextBits_left hrest.1)
        have hcapv := hv.nodeCap
        obtain ⟨x, hright⟩ := ihr hv.ready (k := k + 1 + left.nnodes) (fuel := fuel - 1) (by omega) (by omega)
          (hv.restBits hrest) hsecond
        exact ⟨x, by rw [hdes, hleft, Res.bind_ok, hright, Res.bind_raise]⟩

/-! ### A cut body -/

/-- A cut body is the codewords of the first chunks and then a path that ends above a leaf. -/
theorem cut_streamBody {root : Tree} {cw : CodeTable} {chunks : List Byte} {l : Bits}
    (hcodes : codesFor root cw chunks) (hcut : Cut l (streamBody cw chunks)) :
    ∃ sent q node, sent <+: chunks ∧ l = (sent.flatMap fun c => cw.word c.toNat) ++ q ∧
      root.subtree q = some node ∧ node.isLeaf = false := by
  obtain ⟨hchunks, w, hsentinel⟩ := hcodes
  induction chunks generalizing l with
  | nil =>
    obtain ⟨node, hnode⟩ := Cut.internal (a := cw.word sentinel.val) hcut hsentinel
    exact ⟨[], l, node, List.nil_prefix, rfl, hnode⟩
  | cons c chunks ih =>
    obtain ⟨⟨y, x, -, hleaf⟩, hchunks⟩ := List.forall_mem_cons.1 hchunks
    rw [streamBody, List.flatMap_cons, List.append_assoc] at hcut
    rcases hcut.append_cases with hfirst | ⟨m, rfl, hrest⟩
    · obtain ⟨node, hnode⟩ := hfirst.internal hleaf
      exact ⟨[], l, node, List.nil_prefix, rfl, hnode⟩
    · obtain ⟨sent, q, node, hsent, rfl, hnode⟩ := ih hrest hchunks
      refine ⟨c :: sent, q, node, List.cons_prefix_cons.2 ⟨rfl, hsent⟩, ?_, hnode⟩
      rw [List.flatMap_cons, List.append_assoc]

/-- R218: the loop over a cut body sends the first chunks and ends with the source. -/
theorem Decoding.cutBody {s t : State} {root : Tree} {out : List Byte} {cw : CodeTable} {chunks : List Byte} {l : Bits}
    (h : Decoding s root [] [] out t) (hleaf : root.isLeaf = false) (hcodes : codesFor root cw chunks)
    (hrest : s.restBits l) (hcut : Cut l (streamBody cw chunks)) :
    ∃ sent v, sent <+: chunks ∧ v.host.out = out ++ sent ∧
      ∀ fuel, decodeLoop (fuel + 1 + l.length) 0 t = .raise .endOfStream v := by
  obtain ⟨sent, q, node, hsent, rfl, hnode, hint⟩ := cut_streamBody hcodes hcut
  obtain ⟨u, hu, hchunks⟩ := h.chunks hleaf (fun c hc => hcodes.1 c (hsent.subset hc)) (State.nextBits_left hrest.1)
  obtain ⟨v, hv, hpath⟩ := hu.along hleaf hrest.1 hnode hint
  have hend := State.restBits_after (l := []) (by rwa [List.append_nil]) hv.pos hv.src
  have hraise := decBody_endOfStream hv.root_eq (by rw [hv.dec]) hleaf (Draws.quiet_draw hv.reader.2).1
    (by rw [hend.2]; exact Nat.lt_succ_self _)
  refine ⟨sent, ((sourceDraw v).2.refilled 1).failDec, hsent, hv.out.1, fun fuel => ?_⟩
  rw [List.length_append, Nat.add_comm (List.length _) q.length, ← Nat.add_assoc, hchunks, hpath,
    decodeLoop_raise _ _ hraise]

/-! ### DECOMPRESS of a cut stream -/

section
variable {s : State} {u : Tree} (hrd : s.readerReady) (hwr : s.writerReady) (hcap : u.nnodes ≤ s.params.nodeCap)
include hrd hcap

/-- R213, R218: the tree is cut. -/
theorem decompressBody_cutTree {l : Bits} (hrest : s.restBits (bitsOf 32 s.params.magic.toNat ++ l))
    (hcut : Cut l u.ser) : ∃ t, decompressBody s = .raise .endOfStream t ∧ t.host.out = s.host.out := by
  obtain ⟨t, hmagic, ht⟩ := checkMagic_nextBits (s := s.setMacroStep 1) hrd (State.nextBits_left hrest.1)
  obtain ⟨v, hdes⟩ := desTree_cut (s := t.setMacroStep 2) (k := 0) (fuel := t.params.nodeCap + 1) u ht.ready
    (by rw [Nat.zero_add]; exact hcap.trans_eq ht.nodeCap.symm) (Nat.lt_succ_self _) (ht.restBits hrest) hcut
  obtain ⟨⟨-, hout₁, -⟩, -⟩ := OutsideLoaderKept.of_readFrame ht.frame
  obtain ⟨⟨-, hout₂, -⟩, -⟩ := OutsideLoaderKept.of_readFrame (desTree_raise hdes).1
  refine ⟨v.failLoad, ?_, hout₂.trans hout₁⟩
  rw [decompressBody, hmagic, Res.bind_ok, deserBody_of_raise hdes, Res.bind_raise]

include hwr

/-- R213, R218: the body is cut. -/
theorem decompressBody_cutBody {cw : CodeTable} {chunks : List Byte} {l : Bits} (hpend : s.wr.pend = [])
    (hleaf : u.isLeaf = false) (hcodes : codesFor u cw chunks)
    (hrest : s.restBits (bitsOf 32 s.params.magic.toNat ++ u.ser ++ l)) (hcut : Cut l (streamBody cw chunks)) :
    ∃ sent t, decompressBody s = .raise .endOfStream t ∧ t.host.out = s.host.out ++ sent ∧ sent <+: chunks := by
  obtain ⟨v, hbody, hv, hsrc, hpos, -⟩ := decompressBody_header hrd hwr hpend hcap (State.nextBits_left hrest.1)
  have hrest' := State.restBits_after hrest hpos hsrc
  obtain ⟨sent, t, hsent, hout, hloop⟩ := hv.cutBody (u.isLeaf_weightless.trans hleaf) (codesFor_weightless hcodes)
    hrest' hcut
  obtain ⟨fuel, hfuel⟩ : ∃ fuel, 8 * v.host.src.length + 1 = fuel + 1 + l.length := by
    obtain ⟨-, hlen⟩ := hrest'
    exact ⟨v.rd.pos, by omega⟩
  rw [hfuel, hloop, Res.bind_raise] at hbody
  exact ⟨sent, t, hbody, hout, hsent⟩

/-- R214, R218: DECOMPRESS of a cut stream of the format. -/
theorem exec_decompress_cut {cw : CodeTable} {chunks : List Byte} {l : Bits} (hpend : s.wr.pend = [])
    (hleaf : u.isLeaf = false) (hcodes : codesFor u cw chunks) (hrest : s.restBits l)
    (hcut : Cut l (streamBits s.params.magic u cw chunks)) :
    ∃ t, exec .decompress s = .next t ∧
      t.rstat = (if l.length < 32 then Err.noMagic.rstat else Err.endOfStream.rstat) ∧
      ∃ sent, t.host.out = s.host.out ++ sent ∧ sent <+: chunks := by
  rw [streamBits, List.append_assoc] at hcut
  rcases hcut.append_cases with hmagic | ⟨m, rfl, hpast⟩
  · have hshort : l.length < 32 := by simpa using hmagic.2
    have hleft : 8 * s.host.src.length < s.rd.pos + 32 := by rw [hrest.2]; exact Nat.add_lt_add_left hshort _
    have hcheck := checkMagic_noMagic (s := s.setMacroStep 1) (Draws.quiet_draw hrd.2).1 hleft
    exact ⟨_, exec_decompress_of_raise hrd.1 hwr.1 (decompressBody_of_checkMagic hcheck), (if_pos hshort).symm,
      [], (List.append_nil _).symm, List.nil_prefix⟩
  · rw [if_neg (by simp)]
    rcases hpast.append_cases with htree | ⟨m, rfl, hbits⟩
    · obtain ⟨t, hbody, hout⟩ := decompressBody_cutTree hrd hcap hrest htree
      exact ⟨_, exec_decompress_of_raise hrd.1 hwr.1 hbody, rfl, [], hout.trans (List.append_nil _).symm,
        List.nil_prefix⟩
    · rw [← List.append_assoc] at hrest
      obtain ⟨sent, t, hbody, hout, hsent⟩ := decompressBody_cutBody hrd hwr hcap hpend hleaf hcodes hrest hbits
      exact ⟨_, exec_decompress_of_raise hrd.1 hwr.1 hbody, rfl, sent, hout, hsent⟩

end

/-- Whole bytes short of the last one end within the bits the last byte was padded after (R90). -/
theorem cut_of_take {out : List Byte} {bits : Bits} {k : Nat} (hout : bytesBits out = bits ++ padding bits)
    (hk : k < out.length) : Cut (bytesBits (out.take k)) bits := by
  have hlen := congrArg List.length hout
  rw [bytesBits_length, List.length_append, padding, List.length_replicate] at hlen
  have hshort : (bytesBits (out.take k)).length < bits.length := by
    rw [bytesBits_length, List.length_take, Nat.min_eq_left hk.le]
    omega
  have hprefix : bytesBits (out.take k) <+: bits ++ padding bits := by
    rw [← hout]
    exact ⟨bytesBits (out.drop k), by rw [← bytesBits_append, List.take_append_drop]⟩
  exact ⟨List.prefix_of_prefix_length_le hprefix (List.prefix_append _ _) hshort.le, hshort⟩

/-- Settles O56: the bytes left are a cut of the stream COMPRESS wrote. -/
theorem truncatedStreamFails : Obligations.TruncatedStreamFails := by
  intro s t r k hfresh hexec hok hk hrd hwr hrfresh hpos hparams hmagic hsrc
  obtain ⟨-, hspend⟩ := State.fresh_of_written hfresh
  obtain ⟨hnone, hpend⟩ := State.fresh_of_written hrfresh
  obtain ⟨root, hc, hdec⟩ := exec_compress_decodable (by rw [hspend]; exact Nat.zero_le 7) hexec hok
  have hcut := cut_of_take (hc.out_fresh hfresh) hk
  rw [← hsrc, ← hmagic] at hcut
  have hrest : r.restBits (bytesBits r.host.src) :=
    ⟨State.nextBits_of_prefix hpos (List.prefix_refl _), by rw [hpos, Nat.zero_add, bytesBits_length]⟩
  obtain ⟨v, hv, hrstat, sent, hout, hsent⟩ := exec_decompress_cut hrd hwr (hdec.nnodes.trans hparams.2) hpend
    hdec.internal hdec.codes hrest hcut
  have hbytes : (bytesBits r.host.src).length < 32 ↔ k < 4 := by
    rw [bytesBits_length, hsrc, List.length_take, Nat.min_eq_left hk.le]
    omega
  simp only [hbytes] at hrstat
  rw [hnone, List.nil_append] at hout
  exact ⟨v, hv, hrstat, by rwa [hout]⟩

end Sys2Proof.Machine
end

section
/-! PROOF. O57, every loop ends within its bound (R219, R273): a round of a loop over the source consumes bits, so
rounds past `State.bitsLeft` are never run; a node of `Des()` counts towards `NODE_CAP`; a merge leaves Q one node shorter. -/

namespace Sys2Proof.Machine

/-! ### The loops over the source -/

/-- A ReadBits that answers leaves that many bits fewer. -/
theorem readBits_bitsLeft {n v : Nat} {s t : State} (h : readBits n s = .ok v t) :
    t.bitsLeft + n = s.bitsLeft ∧ t.host.src = s.host.src := by
  obtain ⟨-, hpos, -, hleft, -, hframe⟩ := readBits_ok h
  have hsrc : t.host.src = s.host.src := by rw [hframe]; rfl
  refine ⟨?_, hsrc⟩
  rw [State.bitsLeft, State.bitsLeft, hsrc, hpos]
  omega

theorem bitsLeft_lt_rounds (s : State) : s.bitsLeft < 8 * (s.host.src.length + 1) :=
  Nat.lt_of_le_of_lt (Nat.sub_le _ _) (by omega)

theorem countLoop_more {fuel : Nat} {s : State} (k : Nat) (h : s.bitsLeft < 8 * fuel) :
    countLoop (fuel + k) s = countLoop fuel s := by
  induction fuel generalizing s with
  | zero => exact absurd h (Nat.not_lt_zero _)
  | succ fuel ih =>
    rw [Nat.succ_add, countLoop, countLoop]
    cases hread : readBits 8 s with
    | raise e t => obtain ⟨-, -, ⟨rfl, -⟩ | ⟨rfl, -⟩⟩ := readBits_raise hread <;> rfl
    | ok v t =>
      obtain ⟨hleft, -⟩ := readBits_bitsLeft hread
      dsimp only
      rw [ih (s := t.setFreq (t.freq.bump v)) (show t.bitsLeft < 8 * fuel by omega)]

theorem encodeSymbol_bitsLeft {y n : Nat} {s t : State} (h : encodeSymbol y s = .ok n t) : t.bitsLeft = s.bitsLeft := by
  have hframe : writeFrame s (encodeSymbol y s).state := encodeSymbol_writeFrame s y
  rw [h] at hframe
  change writeFrame s t at hframe
  rw [hframe]
  rfl

theorem encodeLoop_more {fuel e : Nat} {s : State} (k : Nat) (h : s.bitsLeft < 8 * fuel) :
    encodeLoop (fuel + k) e s = encodeLoop fuel e s := by
  induction fuel generalizing e s with
  | zero => exact absurd h (Nat.not_lt_zero _)
  | succ fuel ih =>
    rw [Nat.succ_add, encodeLoop, encodeLoop]
    cases hread : readBits 8 s with
    | raise e t => obtain ⟨-, -, ⟨rfl, -⟩ | ⟨rfl, -⟩⟩ := readBits_raise hread <;> rfl
    | ok v t =>
      obtain ⟨hleft, -⟩ := readBits_bitsLeft hread
      dsimp only
      cases hencode : encodeSymbol v t with
      | raise e u => rfl
      | ok n u =>
        have hkept := encodeSymbol_bitsLeft hencode
        exact ih (by omega)

theorem decBody_bitsLeft {ev : Option DecEvent} {s t : State} (h : decBody s = .ok ev t) :
    t.bitsLeft + 1 = s.bitsLeft := by
  obtain ⟨-, hleft, hpos, hsrc, -⟩ := decBody_ok h
  rw [State.bitsLeft, State.bitsLeft, hsrc, hpos]
  omega

theorem decodeLoop_more {fuel e : Nat} {s : State} (k : Nat) (h : s.bitsLeft < fuel) :
    decodeLoop (fuel + k) e s = decodeLoop fuel e s := by
  induction fuel generalizing e s with
  | zero => exact absurd h (Nat.not_lt_zero _)
  | succ fuel ih =>
    rw [Nat.succ_add, decodeLoop, decodeLoop]
    cases hbody : decBody s with
    | raise e t => rfl
    | ok ev t =>
      have hleft := decBody_bitsLeft hbody
      match ev with
      | none => rfl
      | some .continued => exact ih (by omega)
      | some (.emitted _) => exact ih (by omega)
      | some .done => rfl

/-! ### `Des()` -/

theorem readBits_params {n v : Nat} {s t : State} (h : readBits n s = .ok v t) : t.params = s.params := by
  obtain ⟨-, -, -, -, -, hframe⟩ := readBits_ok h
  rw [hframe]
  rfl

/-- R174: `Des()` counts no node past `NODE_CAP`. -/
theorem desTree_le_nodeCap {fuel k : Nat} {s t : State} {x : Tree × Nat} (hk : k ≤ s.params.nodeCap)
    (h : desTree fuel k s = .ok x t) : x.2 ≤ s.params.nodeCap ∧ t.params = s.params := by
  induction fuel generalizing k s t x with
  | zero => cases h
  | succ fuel ih =>
    unfold desTree at h
    split at h
    · cases h
    · obtain ⟨m, u, hread, h⟩ := Res.bind_eq_ok.1 h
      have hu := readBits_params hread
      split at h
      · obtain ⟨left, v, hleft, h⟩ := Res.bind_eq_ok.1 h
        obtain ⟨right, w, hright, h⟩ := Res.bind_eq_ok.1 h
        cases h
        obtain ⟨hcapl, hv⟩ := ih (by rw [hu]; omega) hleft
        obtain ⟨hcapr, hw⟩ := ih (by rw [hv]; exact hcapl) hright
        rw [hv, hu] at hcapr
        exact ⟨hcapr, hw.trans (hv.trans hu)⟩
      · obtain ⟨y, v, hsymbol, h⟩ := Res.bind_eq_ok.1 h
        split at h
        · cases h
          exact ⟨by omega, (readBits_params hsymbol).trans hu⟩
        · cases h

theorem desTree_more {fuel n : Nat} {s : State} (k : Nat) (hn : n ≤ s.params.nodeCap)
    (h : s.params.nodeCap < fuel + n) : desTree (fuel + k) n s = desTree fuel n s := by
  induction fuel generalizing n s with
  | zero => omega
  | succ fuel ih =>
    rw [Nat.succ_add, desTree, desTree]
    split
    · rfl
    · cases hread : readBits 1 s with
      | raise e t => rfl
      | ok m t =>
        have ht := readBits_params hread
        rw [Res.bind_ok, Res.bind_ok]
        split
        · rw [ih (s := t) (by rw [ht]; omega) (by rw [ht]; omega)]
          cases hleft : desTree fuel (n + 1) t with
          | raise e u => rfl
          | ok left u =>
            obtain ⟨hcap, hu⟩ := desTree_le_nodeCap (by rw [ht]; omega) hleft
            obtain ⟨-, -, -, hcount, -⟩ := desTree_ok hleft
            rw [Res.bind_ok, Res.bind_ok, ih (by rw [hu]; exact hcap) (by rw [hu, ht]; omega)]
        · rfl

/-! ### Merging -/

/-- R146: RemoveMin leaves one node fewer, whatever the sequence numbers. -/
theorem Queue.removeMin_length {tb : TieBreak} {q r : Queue} {t : Tree} (h : q.removeMin tb = some (t, r)) :
    r.items.length + 1 = q.items.length := by
  cases hitems : q.items with
  | nil => simp only [Queue.removeMin, hitems, reduceCtorEq] at h
  | cons x xs =>
    simp only [Queue.removeMin, hitems, Option.some.injEq, Prod.mk.injEq] at h
    obtain ⟨-, rfl⟩ := h
    exact List.length_eraseP_add_one (chooseMin_mem tb q.hist x xs) (beq_self_eq_true _)

theorem mergeLoop_more {fuel : Nat} {q : Queue} (k : Nat) (tb : TieBreak) (h : q.items.length ≤ fuel) :
    mergeLoop tb (fuel + k) q = mergeLoop tb fuel q := by
  induction fuel generalizing q with
  | zero =>
    cases k with
    | zero => rfl
    | succ k => rw [Nat.zero_add, mergeLoop, mergeLoop, if_pos (h.trans (Nat.zero_le 1))]
  | succ fuel ih =>
    rw [Nat.succ_add, mergeLoop, mergeLoop]
    split
    · rfl
    · cases hfirst : q.removeMin tb with
      | none => rfl
      | some first =>
        obtain ⟨a, q1⟩ := first
        have hlen1 := Queue.removeMin_length hfirst
        dsimp only
        cases hsecond : q1.removeMin tb with
        | none => rfl
        | some second =>
          obtain ⟨b, q2⟩ := second
          have hlen2 := Queue.removeMin_length hsecond
          exact ih (by rw [Queue.insert_length]; omega)

/-- Settles O57: each loop's bound is past the rounds it can run. -/
theorem loopsEnd : Obligations.LoopsEnd := by
  refine ⟨fun k s => countLoop_more k (bitsLeft_lt_rounds s), fun k e s => encodeLoop_more k (bitsLeft_lt_rounds s),
    fun k e s hpos => ?_, fun k s => desTree_more k (Nat.zero_le _) (Nat.lt_succ_self _),
    fun k tb q => mergeLoop_more k tb le_rfl⟩
  have hrounds : 8 * s.host.src.length + 1 + k = (s.bitsLeft + 1) + (s.rd.pos + k) := by
    rw [State.bitsLeft]; omega
  rw [hrounds, decodeLoop_more _ (Nat.lt_succ_self _)]
  rfl

end Sys2Proof.Machine
end

section
/-! PROOF. O60 and O8. O60 is half of what `step_answers` says. For O8, a command whose PreCheck refuses it answers and
does nothing else; a command that checks no unit it finds CLOSED or FAILED leaves that unit alone; and only the two
closes are neither. -/

namespace Sys2Proof.Machine

/-- Settles O60: under the invariant the path leads to a node, so no step meets the one fault (R36). -/
theorem everyStepAnswers : Obligations.EveryStepAnswers := by
  intro s h
  obtain ⟨t, hnext, -⟩ := step_answers h
  exact ⟨t, hnext⟩

/-! ### Commands that check a unit that is not OPEN -/

theorem preCheck_of_not_open {u : List StreamUnit} {s : State}
    (h : (StreamUnit.rd ∈ u ∧ s.rd.st ≠ .opened) ∨ (StreamUnit.wr ∈ u ∧ s.wr.st ≠ .opened)) :
    ∃ e, preCheck u s = .raise e s := by
  cases hr : preCheck u s with
  | ok _ t =>
    obtain ⟨-, hrd, hwr⟩ := preCheck_eq_ok.1 hr
    rcases h with ⟨hmem, hst⟩ | ⟨hmem, hst⟩
    · exact absurd (hrd hmem) hst
    · exact absurd (hwr hmem) hst
  | raise e t =>
    obtain ⟨rfl, -⟩ := preCheck_eq_raise hr
    exact ⟨e, rfl⟩

theorem exec_codeDerive_units {s t : State} (h : exec .codeDerive s = .next t) : t.rd = s.rd ∧ t.wr = s.wr := by
  cases hroot : s.tree.root with
  | none => cases (exec_codeDerive_noTree hroot).symm.trans h; exact ⟨rfl, rfl⟩
  | some root => cases (exec_codeDerive hroot).symm.trans h; exact ⟨rfl, rfl⟩

section
variable {i : Instr} {s t : State} (h : exec i s = .next t)
include h

/-- R238, R239: such a command is only its error answer. -/
theorem exec_of_not_open
    (hst : (i.usesReader = true ∧ s.rd.st ≠ .opened) ∨ (i.usesWriter = true ∧ s.wr.st ≠ .opened)) :
    ∃ e, t = s.answerError e := by
  rw [← Instr.rd_mem_checkedUnits, ← Instr.wr_mem_checkedUnits] at hst
  obtain ⟨e, he⟩ := preCheck_of_not_open hst
  cases (exec_of_preCheck he).symm.trans h
  exact ⟨e, rfl⟩

/-! ### Commands that do not check it -/

theorem exec_rd_kept (hi : i.usesReader = false) (hclose : i ≠ .rdClose) : t.rd = s.rd := by
  have hwriter (hi : (∃ n value, i = .wrWrite n value) ∨ i = .wrClose ∨ i = .treeSer ∨ ∃ y, i = .encSym y) :
      t.rd = s.rd :=
    have ⟨⟨hrd, _⟩, _⟩ := writerCommandsFrame i s t hi h
    hrd
  cases i with
  | rdRead _ | rdReset | freqCount | treeDeser | decStep | compress | decompress => cases hi
  | rdClose => exact absurd rfl hclose
  | wrWrite n value => exact hwriter (.inl ⟨n, value, rfl⟩)
  | wrClose => exact hwriter (.inr (.inl rfl))
  | treeSer => exact hwriter (.inr (.inr (.inl rfl)))
  | encSym y => exact hwriter (.inr (.inr (.inr ⟨y, rfl⟩)))
  | treeBuild => cases h; rfl
  | codeDerive => exact (exec_codeDerive_units h).1

end

/-- The writer is `w` still. -/
def WriterIs (w : Writer) (t : State) : Prop := t.wr = w

section
variable {w : Writer} {s : State} (hw : w.st ≠ .opened) (h : WriterIs w s)
include hw h

/-- R210: a data leaf is refused where the writer cannot take the byte. -/
theorem reachNode_writerIs (node : Tree) : WriterIs w (reachNode node s).state := by
  cases node with
  | internal _ _ _ => exact h
  | leaf y v =>
    by_cases hy : y = sentinel
    · subst hy
      rw [reachNode_sentinel]
      exact h
    · have hclosed : s.wr.st ≠ .opened := by rwa [show s.wr = w from h]
      rw [reachNode_data v s hy, emitSymbol_refused y hclosed]
      exact h

theorem decBody_writerIs : WriterIs w (decBody s).state := by
  cases hroot : s.tree.root with
  | none => rw [decBody_none hroot]; exact h
  | some root =>
    by_cases hst : s.dec.st = .ready
    · cases hleaf : root.isLeaf with
      | true => rw [decBody_leafRoot hroot hst hleaf]; exact h
      | false =>
        have hread : WriterIs w (readBits 1 s).state := by rw [readBits_readFrame]; exact h
        rw [decBody_ready hroot hst hleaf]
        refine Res.bind_state_of (Res.onRaise_state_of hread fun _ ht => ht) fun b t ht => ?_
        split
        · exact ht
        · next node _ =>
          exact Res.bind_state_of (reachNode_writerIs (s := t.descended (b != 0)) hw ht node) fun _ _ hv => hv
    · rw [decBody_notReady hroot hst]; exact h

end

theorem execDecStep_writerIs {s t : State} (h : execDecStep s = .next t) (hst : s.wr.st ≠ .opened) :
    WriterIs s.wr t := by
  have hs : WriterIs s.wr s := rfl
  refine finishDefined_state_of h (preCheck_bind_state hs ?_) (fun _ _ hu => hu) fun _ _ hu => hu
  exact Res.bind_state_of (decBody_writerIs hst hs) fun _ _ ht => ht

section
variable {i : Instr} {s t : State} (h : exec i s = .next t)
include h

theorem exec_wr_kept (hi : i.usesWriter = false) (hclose : i ≠ .wrClose) (hst : s.wr.st ≠ .opened) : t.wr = s.wr := by
  have hreader (hi : (∃ n, i = .rdRead n) ∨ i = .rdReset ∨ i = .rdClose) : t.wr = s.wr :=
    have ⟨⟨hwr, _⟩, _⟩ := readerCommandsFrame i s t hi h
    hwr
  have hdrainer (hi : i = .freqCount ∨ i = .treeDeser) : t.wr = s.wr :=
    have ⟨⟨hwr, _⟩, _⟩ := sourceDrainersFrame i s t hi h
    hwr
  cases i with
  | wrWrite _ _ | treeSer | encSym _ | compress | decompress => cases hi
  | wrClose => exact absurd rfl hclose
  | rdRead n => exact hreader (.inl ⟨n, rfl⟩)
  | rdReset => exact hreader (.inr (.inl rfl))
  | rdClose => exact hreader (.inr (.inr rfl))
  | freqCount => exact hdrainer (.inl rfl)
  | treeDeser => exact hdrainer (.inr rfl)
  | treeBuild => cases h; rfl
  | codeDerive => exact (exec_codeDerive_units h).2
  | decStep => exact execDecStep_writerIs h hst

/-! ### A unit that is not OPEN -/

theorem exec_rd_of_not_open (hclose : i ≠ .rdClose) (hst : s.rd.st ≠ .opened) : t.rd = s.rd := by
  cases hi : i.usesReader with
  | true => obtain ⟨e, rfl⟩ := exec_of_not_open h (.inl ⟨hi, hst⟩); rfl
  | false => exact exec_rd_kept h hi hclose

theorem exec_wr_of_not_open (hclose : i ≠ .wrClose) (hst : s.wr.st ≠ .opened) : t.wr = s.wr := by
  cases hi : i.usesWriter with
  | true => obtain ⟨e, rfl⟩ := exec_of_not_open h (.inr ⟨hi, hst⟩); rfl
  | false => exact exec_wr_kept h hi hclose hst

/-- R105, R241: RD.CLOSE is refused by a CLOSED reader and closes a FAILED one. -/
theorem exec_rd_not_reopened :
    (s.rd.st = .closed → t.rd = s.rd) ∧ (s.rd.st = .failed → t.rd.st ≠ .opened) := by
  by_cases hi : i = .rdClose
  · subst hi
    obtain ⟨-, -, hclosed⟩ := execRdClose_frame h
    refine ⟨fun hst => ?_, fun _ => by rw [hclosed]; decide⟩
    cases (execRdClose_of_closed hst).symm.trans h
    rfl
  · have hkept := exec_rd_of_not_open h hi
    exact ⟨fun hst => hkept (by rw [hst]; decide), fun hst => by rw [hkept (by rw [hst]; decide), hst]; decide⟩

/-- R125, R241: WR.CLOSE is refused by a CLOSED writer and closes a FAILED one. -/
theorem exec_wr_not_reopened :
    (s.wr.st = .closed → t.wr = s.wr) ∧ (s.wr.st = .failed → t.wr.st ≠ .opened) := by
  by_cases hi : i = .wrClose
  · subst hi
    refine ⟨fun hst => ?_, fun hst => ?_⟩
    · cases (execWrClose_of_closed hst).symm.trans h
      rfl
    · cases (execWrClose_of_failed hst).symm.trans h
      exact nofun
  · have hkept := exec_wr_of_not_open h hi
    exact ⟨fun hst => hkept (by rw [hst]; decide), fun hst => by rw [hkept (by rw [hst]; decide), hst]; decide⟩

end

/-! ### The step -/

/-- The unit with this state before and this state after was not OPEN and is. -/
def Reopened (before after : UnitState) : Prop := before ≠ .opened ∧ after = .opened

theorem not_reopened_self (st : UnitState) : ¬ Reopened st st := fun ⟨hbefore, hafter⟩ => hbefore hafter

theorem exec_not_reopened {i : Instr} {s t : State} (h : exec i s = .next t) :
    ¬ (Reopened s.rd.st t.rd.st ∨ Reopened s.wr.st t.wr.st) := by
  obtain ⟨hrdClosed, hrdFailed⟩ := exec_rd_not_reopened h
  obtain ⟨hwrClosed, hwrFailed⟩ := exec_wr_not_reopened h
  rintro (⟨hbefore, hafter⟩ | ⟨hbefore, hafter⟩)
  · cases hst : s.rd.st with
    | opened => exact hbefore hst
    | closed => exact hbefore (by rw [← hrdClosed hst]; exact hafter)
    | failed => exact hrdFailed hst hafter
  · cases hst : s.wr.st with
    | opened => exact hbefore hst
    | closed => exact hbefore (by rw [← hwrClosed hst]; exact hafter)
    | failed => exact hwrFailed hst hafter

theorem runCommand_not_reopened {s t : State} (h : runCommand s = .next t) :
    ¬ (Reopened s.rd.st t.rd.st ∨ Reopened s.wr.st t.wr.st) := by
  unfold runCommand at h
  split at h
  · exact exec_not_reopened h
  · next e _ =>
    have hself : ¬ (Reopened s.rd.st s.rd.st ∨ Reopened s.wr.st s.wr.st) :=
      not_or.2 ⟨not_reopened_self _, not_reopened_self _⟩
    cases e <;> cases h <;> exact hself

/-- Settles O8: each unit by itself, then the host's three acts. -/
theorem onlyResetReopens : Obligations.OnlyResetReopens := by
  refine ⟨fun i s t h => ?_, fun s t h hopen => ?_⟩
  · obtain ⟨hrdClosed, hrdFailed⟩ := exec_rd_not_reopened h
    obtain ⟨hwrClosed, hwrFailed⟩ := exec_wr_not_reopened h
    exact ⟨hrdClosed, hrdFailed, hwrClosed, hwrFailed⟩
  · unfold step at h
    split at h
    · cases h
      exact absurd hopen (not_or.2 ⟨not_reopened_self _, not_reopened_self _⟩)
    · next src rest hplan => exact ⟨src, rest, hplan⟩
    · next cmd data rest _ => exact absurd hopen (runCommand_not_reopened (s := acceptCommand cmd data rest s) h)

end Sys2Proof.Machine
end

section
/-! PROOF. O10 and O9, the statuses of R237. `Res.Causes L` says that a piece of a command raises only errors of `L`,
and `AnswersIn L` says so of a command's answer. Past its step 2 COMPRESS has a tree (`HasTree`) and DECOMPRESS a READY
decoder too (`Loaded`), so neither answers NO_TREE or DECODER_NOT_READY. INVALID_ARGUMENT comes from one check alone, and
`widthErrors` is what that check can raise. -/

namespace Sys2Proof.Machine

/-! ### The errors a piece of a command raises -/

/-- Every error the piece raises is in the list. -/
def Res.Causes {α : Type} (r : Res α) (L : List Err) : Prop := r.Raises fun e _ => e ∈ L

section
variable {α β : Type} {r : Res α} {L L' : List Err}

theorem Res.Causes.mono (h : r.Causes L') (hsub : L' ⊆ L := by decide) : r.Causes L := fun e t hr => hsub (h e t hr)

theorem Res.causes_ok (a : α) (s : State) : (Res.ok a s).Causes L := Res.raises_ok a s

theorem Res.causes_raise {e : Err} (s : State) (he : e ∈ L := by decide) : (Res.raise e s : Res α).Causes L :=
  Res.raises_raise.2 he

/-- The rule for program order (R11): the next piece runs only from where the first one went on. -/
theorem Res.Causes.bind {k : α → State → Res β} (h : r.Causes L') (hk : ∀ a t, r = .ok a t → (k a t).Causes L)
    (hsub : L' ⊆ L := by decide) : (r.bind k).Causes L := by
  intro e t hr
  rcases Res.bind_eq_raise.1 hr with hr | ⟨a, u, hok, hr⟩
  · exact hsub (h e t hr)
  · exact hk a u hok e t hr

theorem Res.Causes.respond {f : α → State → β} (h : r.Causes L') (hsub : L' ⊆ L := by decide) :
    (r.bind fun a t => .ok (f a t) t).Causes L :=
  h.bind (fun _ _ _ => Res.causes_ok _ _) hsub

end

/-- Where a piece goes on, it goes on from the state it ends in. -/
theorem Res.state_of_ok {α : Type} {P : State → Prop} {r : Res α} {a : α} {t : State} (hr : r = .ok a t)
    (h : P r.state) : P t := by
  rw [hr] at h
  exact h

/-! ### The shared operations -/

/-- R238: the refusal of a FAILED unit. -/
def StreamUnit.sticky : StreamUnit → Err
  | .rd => .stickyRd
  | .wr => .stickyWr

section
variable {s : State}

theorem preCheck_causes (u : List StreamUnit) : (preCheck u s).Causes (.unitClosed :: u.map StreamUnit.sticky) := by
  intro e t h
  unfold preCheck at h
  split_ifs at h with hrdClosed hwrClosed hrdFailed hwrFailed <;> cases h
  · exact List.mem_cons_self
  · exact List.mem_cons_self
  · exact List.mem_cons_of_mem _ (List.mem_map_of_mem hrdFailed.1)
  · exact List.mem_cons_of_mem _ (List.mem_map_of_mem hwrFailed.1)

theorem readBits_causes (n : Nat) : (readBits n s).Causes [.sourceIO, .endOfStream] := by
  intro e t h
  obtain ⟨-, -, ⟨rfl, -⟩ | ⟨rfl, -⟩⟩ := readBits_raise h <;> decide

theorem rewindBody_causes : (rewindBody s).Causes [.sourceIO] := by
  intro e t h
  rcases rewindBody_cases s with ⟨u, hr, -⟩ | ⟨u, hr, -⟩ <;> cases hr.symm.trans h
  exact List.mem_cons_self

theorem writeList_causes (l : Bits) : (writeList l s).Causes [.sinkIO] := by
  induction l generalizing s with
  | nil => exact Res.causes_ok _ s
  | cons b l ih =>
    have hbit : (writeBit b s).Causes [.sinkIO] := fun e t h => List.mem_singleton.2 (writeBit_raise h).1
    exact hbit.bind fun _ _ _ => ih

theorem closeOpenWriter_causes : (closeOpenWriter s).Causes [.sinkIO] := fun _ _ h =>
  List.mem_singleton.2 (closeOpenWriter_raise h).1

/-! ### Counting, deriving, serializing and encoding -/

theorem countBody_causes : (countBody s).Causes [.sourceIO, .capacity] := by
  intro e t h
  obtain ⟨-, ⟨rfl, -⟩ | ⟨rfl, -⟩⟩ := countLoop_raise h <;> decide

/-- A tree is in the store (R32). -/
def HasTree (s : State) : Prop := ∃ root, s.tree.root = some root

theorem hasTree_or_none (s : State) : s.tree.root = none ∨ HasTree s := by
  cases hroot : s.tree.root with
  | none => exact .inl rfl
  | some root => exact .inr ⟨root, hroot⟩

theorem serBody_causes_of_tree (h : HasTree s) : (serBody s).Causes [.sinkIO] := by
  obtain ⟨root, hroot⟩ := h
  rw [serBody_some hroot]
  exact (writeList_causes _).respond

theorem serBody_causes : (serBody s).Causes [.noTree, .sinkIO] := by
  rcases hasTree_or_none s with hnone | htree
  · rw [serBody_none hnone]; exact Res.causes_raise s
  · exact (serBody_causes_of_tree htree).mono

theorem deriveBody_causes_of_tree (h : HasTree s) : (deriveBody s).Causes [] := by
  obtain ⟨root, hroot⟩ := h
  rw [deriveBody_some hroot]
  exact Res.causes_ok _ _

theorem deriveBody_causes : (deriveBody s).Causes [.noTree] := by
  rcases hasTree_or_none s with hnone | htree
  · rw [deriveBody_none hnone]; exact Res.causes_raise s
  · exact (deriveBody_causes_of_tree htree).mono

theorem encodeSymbol_causes (y : Nat) : (encodeSymbol y s).Causes [.noCodeword, .sinkIO] := by
  cases hy : s.code.cw.lookup y with
  | none => rw [encodeSymbol_none hy]; exact Res.causes_raise s
  | some w => rw [encodeSymbol_some hy]; exact (writeList_causes w).respond

/-- R192: END_OF_STREAM ends the loop. -/
theorem encodeLoop_causes (fuel k : Nat) : (encodeLoop fuel k s).Causes [.sourceIO, .noCodeword, .sinkIO] := by
  induction fuel generalizing k s with
  | zero => exact Res.causes_ok k s
  | succ fuel ih =>
    unfold encodeLoop
    split
    · exact (encodeSymbol_causes _).bind fun _ _ _ => ih _
    · exact Res.causes_ok k _
    · next e t hend hr =>
      obtain ⟨-, -, ⟨rfl, -⟩ | ⟨rfl, -⟩⟩ := readBits_raise hr
      · exact Res.causes_raise t
      · exact absurd rfl hend

/-! ### COMPRESS -/

theorem builtTree_hasTree (s : State) : HasTree s.builtTree := by
  obtain ⟨root, hroot, -⟩ := buildTree_spec s.params.tieBreak s.freq.cnt
  exact ⟨root, by rw [State.builtTree_tree]; exact hroot⟩

theorem HasTree.of_readFrame {t : State} (h : HasTree s) (hf : readFrame s t) : HasTree t := by
  rw [hf]
  exact h

theorem HasTree.of_writeFrame {t : State} (h : HasTree s) (hf : writeFrame s t) : HasTree t := by
  rw [hf]
  exact h

theorem HasTree.setMacroStep (h : HasTree s) (k : Fin 10) : HasTree (s.setMacroStep k) := h

/-- R192, R193: the steps of COMPRESS in order, with a tree from step 2 on. -/
theorem compressBody_causes : (compressBody s).Causes [.sourceIO, .capacity, .sinkIO, .noCodeword] := by
  refine countBody_causes.bind fun _ t _ => ?_
  have ht := (builtTree_hasTree (t.setMacroStep 2)).setMacroStep 3
  refine rewindBody_causes.bind fun _ t hr => ?_
  have ht := (Res.state_of_ok hr (ht.of_readFrame (rewindBody_readFrame _))).setMacroStep 4
  refine (writeList_causes _).bind fun _ t hr => ?_
  have ht := (Res.state_of_ok hr (ht.of_writeFrame (writeList_writeFrame _ _))).setMacroStep 5
  refine (serBody_causes_of_tree ht).bind fun _ t hr => ?_
  have ht := (Res.state_of_ok hr (ht.of_writeFrame (serBody_writeFrame _))).setMacroStep 6
  exact (deriveBody_causes_of_tree ht).bind fun _ _ _ => (encodeLoop_causes _ 0).bind fun _ _ _ =>
    (encodeSymbol_causes _).bind fun _ _ _ => closeOpenWriter_causes.respond

/-! ### Loading a tree and decoding -/

theorem deserBody_causes : (deserBody s).Causes [.sourceIO, .endOfStream, .nodeCap, .symbolRange] := by
  intro e t h
  rcases deserBody_cases s with ⟨x, u, -, hr⟩ | ⟨f, u, hd, hr⟩ <;> cases hr.symm.trans h
  obtain ⟨-, ⟨rfl, -⟩ | ⟨hf, -⟩⟩ := desTree_raise hd
  · exact List.mem_cons_self
  · exact List.mem_cons_of_mem _ hf

theorem emitSymbol_causes (y : Symbol) : (emitSymbol y s).Causes [.unitClosed, .stickyWr, .sinkIO] :=
  have hwrite : ((writerTakes s).bind fun _ s => writeBits 8 y.val s).Causes [.unitClosed, .stickyWr, .sinkIO] :=
    (preCheck_causes [.wr]).bind fun _ _ _ => (writeList_causes _).mono
  Res.Causes.bind (Res.Raises.onRaise hwrite) fun _ _ _ => Res.causes_ok _ _

theorem reachNode_causes (node : Tree) : (reachNode node s).Causes [.unitClosed, .stickyWr, .sinkIO] := by
  cases node with
  | internal _ _ _ => exact Res.causes_ok _ s
  | leaf y w =>
    by_cases hy : y = sentinel
    · subst hy
      rw [reachNode_sentinel]
      exact Res.causes_ok _ _
    · rw [reachNode_data w s hy]
      exact emitSymbol_causes y

/-- A tree is in the store and the decoder is READY (R35). -/
def Loaded (s : State) : Prop := HasTree s ∧ s.dec.st = .ready

theorem Loaded.setMacroStep (h : Loaded s) (k : Fin 10) : Loaded (s.setMacroStep k) := h

/-- The errors of a decoding step past its checks of the store and of the decoder (R210). -/
def stepErrors : List Err := [.leafRoot, .sourceIO, .endOfStream, .unitClosed, .stickyWr, .sinkIO]

theorem decBody_causes_of_loaded (h : Loaded s) : (decBody s).Causes stepErrors := by
  obtain ⟨⟨root, hroot⟩, hst⟩ := h
  cases hleaf : root.isLeaf with
  | true => rw [decBody_leafRoot hroot hst hleaf]; exact Res.causes_raise _
  | false =>
    rw [decBody_ready hroot hst hleaf]
    have hread : ((readBits 1 s).onRaise State.failDec).Causes [.sourceIO, .endOfStream] :=
      Res.Raises.onRaise (readBits_causes 1)
    refine hread.bind fun b t _ => ?_
    split
    · exact Res.causes_ok _ _
    · next node _ => exact (reachNode_causes node).respond

theorem decBody_causes : (decBody s).Causes (.noTree :: .decoderNotReady :: stepErrors) := by
  rcases hasTree_or_none s with hnone | ⟨root, hroot⟩
  · rw [decBody_none hnone]; exact Res.causes_raise s
  · by_cases hst : s.dec.st = .ready
    · exact (decBody_causes_of_loaded ⟨⟨root, hroot⟩, hst⟩).mono
    · rw [decBody_notReady hroot hst]; exact Res.causes_raise s

/-- A step that is not the last one leaves the next one a tree and a READY decoder (R210). -/
theorem Loaded.decBody {ev : Option DecEvent} {t : State} (h : Loaded s) (hr : decBody s = .ok ev t)
    (hev : ev ≠ some .done) : Loaded t := by
  obtain ⟨⟨root, hroot⟩, -⟩ := h
  obtain ⟨-, htree, -⟩ := Res.state_of_ok hr (decBody_tablesKept (s₀ := s) ⟨rfl, rfl, rfl⟩)
  obtain ⟨-, -, -, -, hdec⟩ := decBody_ok hr
  exact ⟨⟨root, by rw [htree]; exact hroot⟩, by rw [hdec, if_neg hev]⟩

theorem decodeLoop_causes (h : Loaded s) (fuel e : Nat) : (decodeLoop fuel e s).Causes stepErrors := by
  induction fuel generalizing e s with
  | zero => exact Res.causes_raise s
  | succ fuel ih =>
    refine (decBody_causes_of_loaded h).bind fun ev t hr => ?_
    match ev with
    | none => exact Res.causes_ok _ t
    | some .continued => exact ih (h.decBody hr nofun) e
    | some (.emitted _) => exact ih (h.decBody hr nofun) (e + 1)
    | some .done => exact Res.causes_ok _ t

/-! ### DECOMPRESS -/

/-- R213, R214: the source ending is NO_MAGIC here. -/
theorem checkMagic_causes : (checkMagic s).Causes [.sourceIO, .noMagic, .badMagic] := by
  unfold checkMagic
  split
  · split
    · exact Res.causes_ok _ _
    · exact Res.causes_raise _
  · exact Res.causes_raise _
  · next e t hend hr =>
    obtain ⟨-, -, ⟨rfl, -⟩ | ⟨rfl, -⟩⟩ := readBits_raise hr
    · exact Res.causes_raise t
    · exact absurd rfl hend

theorem deserBody_loaded {bits : Nat} {t : State} (h : deserBody s = .ok bits t) : Loaded t := by
  rcases deserBody_cases s with ⟨x, u, -, hr⟩ | ⟨e, u, -, hr⟩ <;> cases hr.symm.trans h
  exact ⟨⟨x.1, rfl⟩, rfl⟩

theorem closeDecoded_causes (e : Option Nat) : (closeDecoded e s).Causes [.sinkIO] := by
  cases e with
  | none => exact Res.causes_ok _ s
  | some k => exact closeOpenWriter_causes.respond

/-- R213, R215: the steps of DECOMPRESS in order, with a tree and a READY decoder from step 2 on. -/
theorem decompressBody_causes :
    (decompressBody s).Causes (.noMagic :: .badMagic :: .nodeCap :: .symbolRange :: stepErrors) := by
  refine checkMagic_causes.bind fun _ t _ => deserBody_causes.bind fun _ t hr => ?_
  have ht := ((deserBody_loaded hr).setMacroStep 3).setMacroStep 4
  exact (decodeLoop_causes ht _ 0).bind fun e _ _ => (closeDecoded_causes e).mono

end

/-! ### The answer -/

/-- The answer is OK, or an error of the list with RVAL 0 (R82). -/
def AnswersIn (L : List Err) (t : State) : Prop :=
  rstatStatus t.rstat = 0 ∨ ∃ e ∈ L, t.rstat = e.rstat ∧ t.rval = 0

section
variable {L L' : List Err} {s t : State}

theorem AnswersIn.mono (h : AnswersIn L' t) (hsub : L' ⊆ L) : AnswersIn L t :=
  h.imp_right fun ⟨e, he, hanswer⟩ => ⟨e, hsub he, hanswer⟩

theorem AnswersIn.answer (a : Answer) (u : State) : AnswersIn L (u.answer a) := .inl a.rstatStatus_eq_zero

theorem AnswersIn.answerError {e : Err} (he : e ∈ L) (u : State) : AnswersIn L (u.answerError e) :=
  .inr ⟨e, he, rfl, rfl⟩

theorem AnswersIn.of_finish {r : Res Answer} (ht : finish r = .next t) (h : r.Causes L) : AnswersIn L t := by
  cases finish_next.1 ht
  cases hr : r with
  | ok a u => exact .answer a u
  | raise e u => exact .answerError (h e u hr) u

theorem AnswersIn.of_finishDefined {r : Res (Option Answer)} (ht : finishDefined r = .next t) (h : r.Causes L) :
    AnswersIn L t := by
  rcases finishDefined_next ht with ⟨a, u, rfl, rfl⟩ | ⟨e, u, rfl, rfl⟩
  · exact .answer a u
  · exact .answerError (h e u rfl) u

/-! ### The widths -/

/-- What the check of a width raises (R231). -/
def widthErrors (n : Nat) : List Err := if legalWidth n then [] else [.invalidArgument]

theorem widthErrors_of_legal {n : Nat} (h : legalWidth n = true) : widthErrors n = [] := if_pos h

theorem widthErrors_of_illegal {n : Nat} (h : ¬ legalWidth n = true) : widthErrors n = [.invalidArgument] := if_neg h

theorem widthErrors_subset (n : Nat) : widthErrors n ⊆ [.invalidArgument] := by
  unfold widthErrors
  split <;> decide

theorem AnswersIn.of_widthErrors {n : Nat} (h : AnswersIn (widthErrors n ++ L) t) :
    AnswersIn (.invalidArgument :: L) t := by
  refine h.mono (List.append_subset.2 ⟨fun e he => ?_, List.subset_cons_self _ _⟩)
  exact List.mem_append_left L (widthErrors_subset n he)

theorem not_legalWidth_iff {n : Nat} : ¬ legalWidth n = true ↔ n = 0 ∨ 33 ≤ n := by
  rw [legalWidth_iff]
  omega

/-- A command that checks its units, then a width, and then is `r`. -/
theorem widthChecked_causes {α : Type} {n : Nat} {u : List StreamUnit} {r : State → Res α} (h : ∀ t, (r t).Causes L)
    (hsub : .unitClosed :: u.map StreamUnit.sticky ⊆ L) :
    ((preCheck u s).bind fun _ t => if legalWidth n then r t else .raise .invalidArgument t).Causes
      (widthErrors n ++ L) := by
  refine (preCheck_causes u).bind (fun _ t _ => ?_) (List.subset_append_of_subset_right _ hsub)
  split
  · exact (h t).mono (List.subset_append_right _ _)
  · next hn =>
    rw [widthErrors_of_illegal hn]
    exact Res.causes_raise t List.mem_cons_self

/-- R231: on checked units a width outside 1..32 is the whole command. -/
theorem finish_widthChecked {n : Nat} {u : List StreamUnit} {r : State → Res Answer} (hn : n = 0 ∨ 33 ≤ n)
    (hu : preCheck u s = .ok ⟨⟩ s) :
    finish ((preCheck u s).bind fun _ t => if legalWidth n then r t else .raise .invalidArgument t) =
      .next (s.answerError .invalidArgument) := by
  rw [hu, Res.bind_ok, if_neg (not_legalWidth_iff.2 hn)]
  rfl

/-! ### The commands -/

theorem execRdRead_answersIn {n : Nat} (h : execRdRead n s = .next t) :
    AnswersIn (widthErrors n ++ [.endOfStream, .sourceIO, .stickyRd, .unitClosed]) t :=
  .of_finish h (widthChecked_causes (fun _ => (readBits_causes n).respond) (by decide))

theorem execRdReset_answersIn (h : execRdReset s = .next t) : AnswersIn Instr.rdReset.mayAnswer t :=
  .of_finish h ((preCheck_causes _).bind fun _ _ _ => rewindBody_causes.respond)

theorem execRdClose_answersIn (h : execRdClose s = .next t) : AnswersIn Instr.rdClose.mayAnswer t := by
  refine .of_finish h ?_
  split
  · exact Res.causes_raise _
  · exact Res.causes_raise _
  · split
    · exact Res.causes_raise _
    · exact Res.causes_ok _ _

theorem execWrWrite_answersIn {n : Nat} {value : Word} (h : execWrWrite n value s = .next t) :
    AnswersIn (widthErrors n ++ [.sinkIO, .stickyWr, .unitClosed]) t :=
  .of_finish h (widthChecked_causes (fun _ => (writeList_causes _).respond) (by decide))

theorem execWrClose_answersIn (h : execWrClose s = .next t) : AnswersIn Instr.wrClose.mayAnswer t := by
  refine .of_finish h ?_
  split
  · exact Res.causes_raise _
  · exact Res.causes_raise _
  · exact closeOpenWriter_causes.respond

theorem execFreqCount_answersIn (h : execFreqCount s = .next t) : AnswersIn Instr.freqCount.mayAnswer t :=
  .of_finish h ((preCheck_causes _).bind fun _ _ _ => countBody_causes.respond)

theorem execTreeBuild_answersIn (h : execTreeBuild s = .next t) : AnswersIn Instr.treeBuild.mayAnswer t :=
  .of_finish h (Res.causes_ok _ _)

theorem execCodeDerive_answersIn (h : execCodeDerive s = .next t) : AnswersIn Instr.codeDerive.mayAnswer t :=
  .of_finish h deriveBody_causes.respond

theorem execTreeSer_answersIn (h : execTreeSer s = .next t) : AnswersIn Instr.treeSer.mayAnswer t :=
  .of_finish h ((preCheck_causes _).bind fun _ _ _ => serBody_causes.respond)

theorem execTreeDeser_answersIn (h : execTreeDeser s = .next t) : AnswersIn Instr.treeDeser.mayAnswer t :=
  .of_finish h ((preCheck_causes _).bind fun _ _ _ => deserBody_causes.respond)

theorem execEncSym_answersIn {y : Nat} (h : execEncSym y s = .next t) :
    AnswersIn [.sinkIO, .stickyWr, .unitClosed, .symRange, .noCodeTable, .noCodeword] t := by
  refine .of_finish h ((preCheck_causes _).bind fun _ u _ => ?_)
  split
  · exact Res.causes_raise u
  · split
    · exact Res.causes_raise u
    · exact (encodeSymbol_causes y).respond

theorem execCompress_answersIn (h : execCompress s = .next t) : AnswersIn Instr.compress.mayAnswer t :=
  .of_finish h ((preCheck_causes _).bind fun _ _ _ => compressBody_causes.respond)

theorem execDecStep_answersIn (h : execDecStep s = .next t) : AnswersIn Instr.decStep.mayAnswer t :=
  .of_finishDefined h ((preCheck_causes _).bind fun _ _ _ => decBody_causes.respond)

theorem execDecompress_answersIn (h : execDecompress s = .next t) : AnswersIn Instr.decompress.mayAnswer t :=
  .of_finishDefined h ((preCheck_causes _).bind fun _ _ _ => decompressBody_causes.respond)

theorem exec_answersIn {i : Instr} (h : exec i s = .next t) : AnswersIn i.mayAnswer t := by
  cases i with
  | rdRead n => exact (execRdRead_answersIn h).of_widthErrors.mono (by simp [Instr.mayAnswer])
  | rdReset => exact execRdReset_answersIn h
  | rdClose => exact execRdClose_answersIn h
  | wrWrite n value => exact (execWrWrite_answersIn h).of_widthErrors.mono (by simp [Instr.mayAnswer])
  | wrClose => exact execWrClose_answersIn h
  | freqCount => exact execFreqCount_answersIn h
  | treeBuild => exact execTreeBuild_answersIn h
  | codeDerive => exact execCodeDerive_answersIn h
  | treeSer => exact execTreeSer_answersIn h
  | treeDeser => exact execTreeDeser_answersIn h
  | encSym y => exact execEncSym_answersIn h
  | compress => exact execCompress_answersIn h
  | decStep => exact execDecStep_answersIn h
  | decompress => exact execDecompress_answersIn h

end

/-- Settles O10: `exec_answersIn`. -/
theorem statusesPerCommand : Obligations.StatusesPerCommand := fun _ _ _ h => exec_answersIn h

/-! ### INVALID_ARGUMENT -/

theorem invalidArgument_rstat : Err.invalidArgument.rstat = 2 := by decide

theorem AnswersIn.not_invalidArgument {L : List Err} {t : State} (h : AnswersIn L t) (hL : .invalidArgument ∉ L) :
    t.rstat ≠ 2 := by
  intro hrstat
  rcases h with hok | ⟨e, he, herr, -⟩
  · rw [hrstat] at hok
    exact absurd hok (by decide)
  · rw [hrstat, ← invalidArgument_rstat] at herr
    exact hL (Err.rstat_injective herr ▸ he)

/-- R231: the two commands with a width, where it is legal. -/
theorem widthErrors_answer {n : Nat} {L : List Err} {t : State} (h : AnswersIn (widthErrors n ++ L) t)
    (hL : .invalidArgument ∉ L) (hrstat : t.rstat = 2) : n = 0 ∨ 33 ≤ n := by
  rw [← not_legalWidth_iff]
  intro hn
  rw [widthErrors_of_legal hn] at h
  exact h.not_invalidArgument hL hrstat

theorem exec_invalidArgument {i : Instr} {s t : State} (h : exec i s = .next t) (hrstat : t.rstat = 2) :
    ∃ n, (n = 0 ∨ 33 ≤ n) ∧ (i = .rdRead n ∨ ∃ value, i = .wrWrite n value) := by
  have hother : .invalidArgument ∈ i.mayAnswer := by
    by_contra hL
    exact (exec_answersIn h).not_invalidArgument hL hrstat
  cases i with
  | rdRead n => exact ⟨n, widthErrors_answer (execRdRead_answersIn h) (by decide) hrstat, .inl rfl⟩
  | wrWrite n value =>
    exact ⟨n, widthErrors_answer (execWrWrite_answersIn h) (by decide) hrstat, .inr ⟨value, rfl⟩⟩
  | encSym y => simp [Instr.mayAnswer] at hother
  | rdReset | rdClose | wrClose | freqCount | treeBuild | codeDerive | treeSer | treeDeser | compress | decStep
  | decompress => exact absurd hother (by decide)

/-- Settles O9: the check of the width, and R237's table for every other command. -/
theorem illegalWidthsRefused : Obligations.IllegalWidthsRefused :=
  ⟨fun _ _ hn hst => finish_widthChecked hn (preCheck_of_open (fun _ => hst) (by simp)),
    fun _ _ _ hn hst => finish_widthChecked hn (preCheck_of_open (by simp) fun _ => hst),
    invalidArgument_rstat, fun _ _ _ h hrstat => exec_invalidArgument h hrstat⟩

end Sys2Proof.Machine
end

section
/-! PROOF. O5, the step of a command that decodes (R74, R269). -/

namespace Sys2Proof.Machine

/-- R21, R272: the issue of a command writes `CMD` and `DATA` and takes the act off the host's plan, and does no more. -/
theorem acceptCommand_eq (cmd data : Word) (rest : List HostAct) (s : State) :
    acceptCommand cmd data rest s = { s with cmd := cmd, data := data, host := { s.host with plan := rest } } := rfl

/-- Settles O5: the command decode gives runs on the state the issue leaves. -/
theorem stepRunsDecodedCommand : Obligations.StepRunsDecodedCommand := by
  intro s cmd data rest i hplan hdecode
  rw [step_of_decode_ok hplan hdecode, acceptCommand_eq]

end Sys2Proof.Machine
end
